-- ==== Sys2Proof/Word.lean ====
section
/-! DEFINITION. The words of FP154: bytes of the packet buffer and 16-bit header fields.
Every value is unsigned and bit 0 is its least significant bit (00_scope.md R11). -/

namespace Sys2Proof

/-- One byte of the packet buffer (20_memory.md R40). -/
abbrev Byte := BitVec 8

/-- A 16-bit header field or frame control field (20_memory.md R45, 30_encoding.md R70). -/
abbrev Half := BitVec 16

end Sys2Proof
end

