-- ==== Sys2Proof/Config.lean ====
section
/-! DEFINITION. What is fixed for the block: the constants of 00_scope.md R7 and R8 (hardwired, 10_state.md R23),
the one open parameter BUF_LEN_W (R9), and the one free value (93_implementation_defined.md U7). -/

namespace Sys2Proof.Config

/-- HDR_SIZE, the bytes of the CombinedHeader (R7). -/
def hdrSize : Nat := 10

/-- IEEE154_LINK_MTU, the bound on the value of the length byte (R7; 90_conflicts.md C1). -/
def linkMtu : Nat := 127

/-- BROADCAST_ADDR (R7). -/
def broadcastAddr : Half := 0xFFFF#16

/-- BROADCAST_PAN (R7): named by the source and read by no operation. -/
def broadcastPan : Half := 0xFFFF#16

/-- FT_BEACON (R7). -/
def ftBeacon : BitVec 3 := 0#3
/-- FT_DATA (R7). -/
def ftData : BitVec 3 := 1#3
/-- FT_ACK (R7), the only frame type an operation tests (30_encoding.md R72). -/
def ftAck : BitVec 3 := 2#3
/-- FT_MACCMD (R7). -/
def ftMacCmd : BitVec 3 := 3#3

/-- AM_NONE (R7). -/
def amNone : BitVec 2 := 0#2
/-- AM_RSV1 (R7), the "unused reservation in the addressing-mode space". -/
def amRsv1 : BitVec 2 := 1#2
/-- AM_SHORT (R7). -/
def amShort : BitVec 2 := 2#2
/-- AM_EXTENDED (R7). -/
def amExtended : BitVec 2 := 3#2

/-- RADIO_HDR_SIZE, the length byte (R8). -/
def radioHdrSize : Nat := 1
/-- MAC_HDR_SIZE: fcf, dsn, destpan, dest, src (R8). -/
def macHdrSize : Nat := 9
/-- MAX_PAYLOAD (R8). -/
def maxPayload : Nat := linkMtu - macHdrSize
/-- MAX_BUFFER, a buffer that holds exactly one frame with its length byte (R8; 90_conflicts.md C1). -/
def maxBuffer : Nat := linkMtu + radioHdrSize

/-- BUF_LEN_W, the width of port buf_len: a parameter the spec leaves open, at its default 8
(R9, 92_eei_decisions.md D26). Only the port has this width; the operations take the length as a number.
DESIGN CHOICE, safe (log entry 5). -/
abbrev bufLenW : Nat := 8

/-- FREE VALUE, by transaction and offset: the byte FP154 reads at an offset below the stated Buf.len
at which the host has no byte (70_reset_and_hazards.md R214, 93_implementation_defined.md U7: "any value for each
byte at an offset that does not exist"). DESIGN CHOICE, safe (log entry 3). -/
opaque absentByte : Nat → Nat → Byte

end Sys2Proof.Config
end

