-- ==== Sys2Proof/Syntax.lean ====
section
/-! DEFINITION. The syntax of FP154: the FrameControlFields record, the packet buffer as an operand, the six operations
with their operands, and the request ports that carry one of them. -/

namespace Sys2Proof

/-- FrameControlFields (10_state.md R27): nine members, each an unsigned value of exactly its field's width, so
that every combination is a valid value and a wider one cannot be presented (40_fcf_codec.md R103). -/
structure FrameControlFields where
  /-- FCF bits 2:0 -/
  frame_type : BitVec 3
  /-- FCF bit 3 -/
  security : BitVec 1
  /-- FCF bit 4 -/
  pending : BitVec 1
  /-- FCF bit 5 -/
  ack_req : BitVec 1
  /-- FCF bit 6 -/
  intra_pan : BitVec 1
  /-- FCF bits 9:7, reserved: carried, not interpreted -/
  rsv7_9 : BitVec 3
  /-- FCF bits 11:10 -/
  dest_mode : BitVec 2
  /-- FCF bits 13:12, reserved: carried, not interpreted -/
  rsv12_13 : BitVec 2
  /-- FCF bits 15:14 -/
  src_mode : BitVec 2
deriving DecidableEq, Repr

/-- The packet-buffer space (20_memory.md R40): offsets and the bytes the host has there, offsets strictly rising.
An offset not listed is one at which the host has no byte. -/
abbrev Memory := List Host.Cell

/-- A packet buffer: the pair of `Buf.len`, a number (00_scope.md R9), and its bytes by offset (20_memory.md R40). It is an
operand of one transaction, "an argument of the step, never … a field of the machine" (10_state.md R34). -/
structure Buffer where
  /-- `Buf.len`, as the host states it -/
  len : Nat
  /-- the bytes behind the read port -/
  bytes : Memory
deriving DecidableEq, Repr

/-- The six operations (30_encoding.md R80), each with the operands its format looks at (R77). -/
inductive Instr where
  /-- FCFDEC (40_fcf_codec.md R100), format F-FCF -/
  | fcfdec (raw : Half)
  /-- FCFENC (40_fcf_codec.md R102), format F-FLD -/
  | fcfenc (f : FrameControlFields)
  /-- ACKREQ (42_requires_ack.md R141), format F-BUF -/
  | ackreq (buf : Buffer)
  /-- ADDRDEC (43_addressing.md R161), format F-BUF -/
  | addrdec (buf : Buffer)
  /-- HDRX (41_header_validate.md R121), format F-BUF -/
  | hdrx (buf : Buffer)
  /-- LENCHK (41_header_validate.md R125), format F-BUF -/
  | lenchk (buf : Buffer)
deriving DecidableEq, Repr

/-- The request ports (10_state.md R25). The read port `buf[off]` is given by the bytes it answers with, one snapshot for
the whole transaction (20_memory.md R56). -/
structure Request where
  op : BitVec 3
  buf_len : BitVec Config.bufLenW
  buf : Memory
  fcf_in : Half
  fld_in : FrameControlFields
deriving DecidableEq, Repr

/-- The packet buffer a request presents. -/
def Request.buffer (r : Request) : Buffer := { len := r.buf_len.toNat, bytes := r.buf }

end Sys2Proof
end

