-- ==== Sys2Proof/WellFormed.lean ====
section
/-! DEFINITION. Which operations a request can present. The members of a FrameControlFields value and a raw FCF
have their ports' widths by their types (40_fcf_codec.md R103); the one thing to check is that a stated `Buf.len` fits
port buf_len (00_scope.md R9). -/

namespace Sys2Proof

/-- A stated `Buf.len` fits the port. -/
def bufLenFits (n : Nat) : Bool := n < 2 ^ Config.bufLenW

/-- The operation can be presented on the request ports. -/
def Instr.wellFormed : Instr → Bool
  | .fcfdec _ => true
  | .fcfenc _ => true
  | .ackreq b => bufLenFits b.len
  | .addrdec b => bufLenFits b.len
  | .hdrx b => bufLenFits b.len
  | .lenchk b => bufLenFits b.len

end Sys2Proof
end

