-- ==== Sys2Proof/Decode.lean ====
section
/-! DEFINITION. Decoding a request by its operation select, and presenting an operation as a request
(30_encoding.md R77, R80, R81). -/

namespace Sys2Proof

/-- What a 3-bit select comes to: "one of the six operations or to 'reserved'" (30_encoding.md R81). -/
inductive Decoded where
  /-- the operation, with the operands its format looks at -/
  | op (i : Instr)
  /-- op codes 110 and 111, which select no operation -/
  | reserved (code : BitVec 3)
deriving DecidableEq, Repr

/-- The decoder: the select codes of 30_encoding.md R80, and of each format (R77) only the operand ports it looks at
(10_state.md R31). -/
def decode (r : Request) : Decoded :=
  match r.op.toNat with
  | 0 => .op (.fcfdec r.fcf_in)
  | 1 => .op (.fcfenc r.fld_in)
  | 2 => .op (.ackreq r.buffer)
  | 3 => .op (.addrdec r.buffer)
  | 4 => .op (.hdrx r.buffer)
  | 5 => .op (.lenchk r.buffer)
  | _ => .reserved r.op

/-- A FrameControlFields value of zeros. -/
def zeroFields : FrameControlFields := ⟨0#3, 0#1, 0#1, 0#1, 0#1, 0#3, 0#2, 0#2, 0#2⟩

/-- A request with the given select, every operand port zero and no byte behind the read port. -/
def bareRequest (op : BitVec 3) : Request :=
  { op := op, buf_len := 0#8, buf := [], fcf_in := 0#16, fld_in := zeroFields }

/-- The encoder: the request that presents a well-formed operation, its unused operand ports zero
(30_encoding.md R80; the unused ports are ignored, 10_state.md R31). -/
def encode : Instr → Request
  | .fcfdec raw => { bareRequest 0b000#3 with fcf_in := raw }
  | .fcfenc f => { bareRequest 0b001#3 with fld_in := f }
  | .ackreq b => { bareRequest 0b010#3 with buf_len := BitVec.ofNat Config.bufLenW b.len, buf := b.bytes }
  | .addrdec b => { bareRequest 0b011#3 with buf_len := BitVec.ofNat Config.bufLenW b.len, buf := b.bytes }
  | .hdrx b => { bareRequest 0b100#3 with buf_len := BitVec.ofNat Config.bufLenW b.len, buf := b.bytes }
  | .lenchk b => { bareRequest 0b101#3 with buf_len := BitVec.ofNat Config.bufLenW b.len, buf := b.bytes }

/-- The request a word of spec/opcode_table.json stands for: the table gives each row the 3 bits of `op` and no
operand bit, so the operand ports are zero and the buffer is empty. A number that three bits do not hold is no select; it is presented
as the reserved code 111, never taken for the operation its low bits would name.
DESIGN CHOICE, safe (log entry 9). -/
def requestOfTableWord (_nbits w : Nat) : Request :=
  bareRequest (if w < 8 then BitVec.ofNat 3 w else 0b111#3)

/-- The operation the decoder reads from a word of the opcode table. -/
def decodeTableWord (nbits w : Nat) : Option Instr :=
  match decode (requestOfTableWord nbits w) with
  | .op i => some i
  | .reserved _ => none

end Sys2Proof
end

