-- ==== Sys2Proof/Machine/State.lean ====
section
/-! DEFINITION. The state. FP154 itself holds NOTHING (10_state.md R20 to R24): no register, no program counter, no
flag, no control register, no packet buffer (R34), no copy of a buffer byte. What a step takes and gives stands around
the block and is held here as plain data: the host's coming requests, each with its operands, its packet buffer among
them (R25, 70_reset_and_hazards.md R226), and the responses the host has received (R26). -/

namespace Sys2Proof.Machine

/-- The snapshot of its buffer operand that an operation reads (20_memory.md R56): the operand, and the number of the
transaction, which picks the free values of bytes the host does not have. -/
structure Snapshot extends Buffer where
  draw : Nat
deriving DecidableEq, Repr

/-- CombinedHeader (10_state.md R28): the raw bits of all six members. -/
structure CombinedHeader where
  length : Byte
  fcf : Half
  dsn : Byte
  destpan : Half
  dest : Half
  src : Half
deriving DecidableEq, Repr

/-- AddrField (10_state.md R29). There is no Extended constructor (43_addressing.md R163). -/
inductive AddrField where
  /-- mode None: the field is absent and has no value -/
  | absent
  /-- mode Short: a valid 16-bit address -/
  | short (v : Half)
  /-- mode value 1: carried through unchanged, nothing asserted of it -/
  | rsv1 (v : Half)
deriving DecidableEq, Repr

/-- FrameAddress with pan_shared (10_state.md R29). -/
structure FrameAddress where
  destAddress : AddrField
  sourceAddress : AddrField
  destPan : AddrField
  pan_shared : BitVec 1
deriving DecidableEq, Repr

/-- The failure kinds (60_exceptions.md R180), each a response of its transaction and not a stop of the machine (R189). -/
inductive Failure where
  /-- R182: Buf.len < 10, by the four buffer operations -/
  | truncatedBuffer
  /-- R183, R184: by ADDRDEC, with one info bit per cause -/
  | unrepresentableAddressing (info : BitVec 3)
  /-- R186: the length byte exceeds 127, by LENCHK -/
  | mtuExceeded
  /-- R188: a reserved operation select -/
  | illegalOp
deriving DecidableEq, Repr

/-- The result ports (10_state.md R26), one per operation; a response holds exactly one (R30). -/
inductive Result where
  /-- fld_out, by FCFDEC -/
  | fldOut (f : FrameControlFields)
  /-- fcf_out, by FCFENC -/
  | fcfOut (v : Half)
  /-- ack_out, by ACKREQ -/
  | ackOut (b : BitVec 1)
  /-- addr_out, by ADDRDEC -/
  | addrOut (a : FrameAddress)
  /-- hdr_out, by HDRX -/
  | hdrOut (h : CombinedHeader)
  /-- LENCHK has no result besides status -/
  | noResult
deriving DecidableEq, Repr

/-- A response: "a sum of 'OK with result' and 'failure'" (10_state.md R30, 93_implementation_defined.md U8). -/
inductive Response where
  | ok (result : Result) (note : BitVec 2)
  | failed (f : Failure)
deriving DecidableEq, Repr

/-- What the host does next (70_reset_and_hazards.md R211, R216, R226). A request brings the buffer as it stands from request
to response, the premise of R215 (log entry 2); what the host does to its buffer between two transactions shows in the
buffer the second one brings (20_memory.md R57). -/
inductive HostAction where
  /-- presents a request -/
  | request (r : Request)
  /-- resets FP154 between transactions (R210) -/
  | reset
  /-- presents a request whose transaction reset interrupts (R211) -/
  | requestCutByReset (r : Request)
deriving DecidableEq, Repr

/-- The whole state of a run. No field is FP154's. A step's type leaves it no argument but State, so its input, a request
with its buffer, comes as the first of the host's actions, is taken off, and nothing of it stays (log entry 1). -/
structure State where
  /-- the host's coming actions, in order: the inputs of the steps to come -/
  inbox : List HostAction
  /-- the responses received, oldest first -/
  responses : List Response
  /-- MODEL's own: how many responses were given, which numbers the free values (log entry 4) -/
  draws : Nat
deriving DecidableEq, Repr

/-- The stops of the machine. FP154's own failures are responses and none of these. -/
inductive Fault where
  /-- Raised by bufRead for an offset not below `Buf.len`, where 20_memory.md R42 leaves BufRead undefined.
  Safe: the machine stops. No operation reaches it (R53). DESIGN CHOICE (log entry 10). -/
  | readPastBuffer (off : Nat)
deriving DecidableEq, Repr

/-- The refusals. -/
inductive Refusal where
  /-- Raised by exec's arm of an operation without a meaning. Safe. No arm is one. -/
  | notModelled (mnemonic : String)
deriving DecidableEq, Repr

/-- The state right after reset. FP154 holds nothing that could have a reset value (10_state.md R32); around it there is
no request yet and no response. DESIGN CHOICE (log entries 4 and 6). -/
def State.reset : State := { inbox := [], responses := [], draws := 0 }

end Sys2Proof.Machine
end

