-- ==== Sys2Proof/Machine/Ops.lean ====
section
/-! DEFINITION. The shared operations: the packet-buffer space, reading it, the size check, the header layout, and
delivering a response (which is what taking an exception is here: 60_exceptions.md R189). -/

namespace Sys2Proof

/-- The byte the host has at an offset, if it has one. -/
def Memory.read? : Memory → Nat → Option Byte
  | [], _ => none
  | (k, v) :: m, a => if k = a then some v else Memory.read? m a

/-- The host's store of one byte (00_scope.md R12 MemWrite, which no operation of FP154 uses: 20_memory.md R52). -/
def Memory.write : Memory → Nat → Byte → Memory
  | [], a, v => [(a, v)]
  | (k, w) :: m, a, v =>
    if a < k then (a, v) :: (k, w) :: m
    else if a = k then (a, v) :: m
    else (k, w) :: Memory.write m a v

/-- Bytes in offset order from an offset on. -/
def Memory.ofBytesFrom : Nat → List Byte → Memory
  | _, [] => []
  | a, v :: bs => (a, v) :: Memory.ofBytesFrom (a + 1) bs

/-- The given bytes, the first at offset 0 (20_memory.md R40). -/
def Memory.ofBytes (bs : List Byte) : Memory := Memory.ofBytesFrom 0 bs

/-- The canonical form: offsets strictly rising. An unlisted offset has no byte, so no entry can repeat what
it would read as. -/
abbrev Memory.wf (m : Memory) : Prop := m.Pairwise (fun c d => c.1 < d.1)

/-- The buffer of the given bytes, its length stated as it is. -/
def Buffer.ofBytes (bs : List Byte) : Buffer := { len := bs.length, bytes := Memory.ofBytes bs }

/-- The buffer after the host has changed one byte of it between two transactions (20_memory.md R57). -/
def Buffer.store (b : Buffer) (off : Nat) (v : Byte) : Buffer := { b with bytes := b.bytes.write off v }

/-- The host's premise about `buf_len`, as far as FP154 can notice it: it has a byte at each of the offsets 0 to 9 that
lies below the stated length (70_reset_and_hazards.md R214). -/
abbrev Buffer.backed (b : Buffer) : Prop :=
  ∀ off < Config.hdrSize, off < b.len → (b.bytes.read? off).isSome

end Sys2Proof

namespace Sys2Proof.Machine

/-- The snapshot a transaction takes of its buffer operand (20_memory.md R56). -/
def State.snapshot (s : State) (b : Buffer) : Snapshot := { toBuffer := b, draw := s.draws }

/-- The byte behind the read port at an offset: the host's, or a free value where the host has none
(70_reset_and_hazards.md R214; log entry 3). Asked twice in one transaction it is the same (20_memory.md R51). -/
def Snapshot.byteAt (b : Snapshot) (off : Nat) : Byte :=
  (b.bytes.read? off).getD (Config.absentByte b.draw off)

/-- Why an operation ends without a result. -/
inductive Stop where
  /-- `raise <Kind>(info)` of 00_scope.md R12 -/
  | raise (f : Failure)
  /-- the machine stops -/
  | fault (f : Fault)
deriving DecidableEq, Repr

/-- BufRead(off), defined only for off < Buf.len (00_scope.md R12, 20_memory.md R42). -/
def bufRead (b : Snapshot) (off : Nat) : Except Stop Byte :=
  if off < b.len then .ok (b.byteAt off) else .error (.fault (.readPastBuffer off))

/-- Little-endian assembly: the byte at the lower offset is the less significant (20_memory.md R43, R45). -/
def le16 (lo hi : Byte) : Half := lo.setWidth 16 ||| (hi.setWidth 16 <<< 8)

/-- LE16(off) (00_scope.md R12, 20_memory.md R45). -/
def readLE16 (b : Snapshot) (off : Nat) : Except Stop Half := do
  let lo ← bufRead b off
  let hi ← bufRead b (off + 1)
  return le16 lo hi

/-- CheckHeader(Buf) (41_header_validate.md R120): the size check every buffer operation begins with. It reads no
byte. -/
def checkHeader (b : Snapshot) : Except Stop Unit :=
  if b.len < Config.hdrSize then .error (.raise .truncatedBuffer) else .ok ()

/-- The header at offsets 0 to 9 (20_memory.md R44, R45). -/
def readHeader (b : Snapshot) : Except Stop CombinedHeader := do
  let length ← bufRead b 0
  let fcf ← readLE16 b 1
  let dsn ← bufRead b 3
  let destpan ← readLE16 b 4
  let dest ← readLE16 b 6
  let src ← readLE16 b 8
  return { length, fcf, dsn, destpan, dest, src }

/-- HdrBytes(h), the same layout read backwards (20_memory.md R55); a function of the notation, not an operation. -/
def hdrBytes (h : CombinedHeader) : List Byte :=
  [ h.length,
    h.fcf.setWidth 8, (h.fcf >>> 8).setWidth 8,
    h.dsn,
    h.destpan.setWidth 8, (h.destpan >>> 8).setWidth 8,
    h.dest.setWidth 8, (h.dest >>> 8).setWidth 8,
    h.src.setWidth 8, (h.src >>> 8).setWidth 8 ]

/-- The bytes a frame with this length byte occupies, the length byte included: offsets 0 to `length`
(20_memory.md R47). -/
def frameBytes (length : Byte) : Nat := length.toNat + Config.radioHdrSize

/-- The payload region of a frame, as its first offset and its size: defined for 9 <= length <= 127 and for no other
length (20_memory.md R48, 93_implementation_defined.md U4). -/
def payloadExtent (length : Byte) : Option (Nat × Nat) :=
  if Config.macHdrSize ≤ length.toNat ∧ length.toNat ≤ Config.linkMtu then
    some (Config.hdrSize, length.toNat - Config.macHdrSize)
  else none

/-- The response reaches the direct caller at once; nothing of FP154 changes, nothing is saved, control goes nowhere
(60_exceptions.md R189), and no buffer is written (20_memory.md R52). -/
def State.deliver (s : State) (r : Response) : State :=
  { s with responses := s.responses ++ [r], draws := s.draws + 1 }

/-- End of a transaction: `return`, or `raise` (00_scope.md R12). The next transaction is an ordinary one
either way (60_exceptions.md R191). -/
def finish (s : State) (e : Except Stop (Result × BitVec 2)) : Host.Outcome State Fault Refusal :=
  match e with
  | .ok (result, note) => .next (s.deliver (.ok result note))
  | .error (.raise f) => .next (s.deliver (.failed f))
  | .error (.fault f) => .fault f

/-- A reserved operation select: IllegalOp, whatever the operand ports and the buffer hold (30_encoding.md R81,
60_exceptions.md R188). -/
def answerReserved (s : State) : Host.Outcome State Fault Refusal :=
  finish s (.error (.raise .illegalOp))

/-- Reset of FP154: no architectural effect (70_reset_and_hazards.md R210). -/
def State.resetSignal (s : State) : State := s

/-- A transaction cut by reset: no response, and no buffer written (70_reset_and_hazards.md R211). -/
def State.cutTransaction (s : State) (_r : Request) : State := s.resetSignal

end Sys2Proof.Machine
end

