-- ==== Sys2Proof/Machine/Operands.lean ====
section
/-! DEFINITION. Taking a frame control field apart and putting it together (30_encoding.md R71, R79), and classifying an
address field (43_addressing.md R160). -/

namespace Sys2Proof.Machine

/-- Extract column of 30_encoding.md R71: shift to bit 0, then the mask, which is the member's width. -/
def extractFields (fcf : Half) : FrameControlFields :=
  { frame_type := fcf.setWidth 3
    security := (fcf >>> 3).setWidth 1
    pending := (fcf >>> 4).setWidth 1
    ack_req := (fcf >>> 5).setWidth 1
    intra_pan := (fcf >>> 6).setWidth 1
    rsv7_9 := (fcf >>> 7).setWidth 3
    dest_mode := (fcf >>> 10).setWidth 2
    rsv12_13 := (fcf >>> 12).setWidth 2
    src_mode := (fcf >>> 14).setWidth 2 }

/-- Insert column of 30_encoding.md R71: the or of the shifted members. -/
def insertFields (f : FrameControlFields) : Half :=
  f.frame_type.setWidth 16
    ||| (f.security.setWidth 16 <<< 3)
    ||| (f.pending.setWidth 16 <<< 4)
    ||| (f.ack_req.setWidth 16 <<< 5)
    ||| (f.intra_pan.setWidth 16 <<< 6)
    ||| (f.rsv7_9.setWidth 16 <<< 7)
    ||| (f.dest_mode.setWidth 16 <<< 10)
    ||| (f.rsv12_13.setWidth 16 <<< 12)
    ||| (f.src_mode.setWidth 16 <<< 14)

/-- Classify(mode, v) (43_addressing.md R160). Mode 3 has no classification: it never reaches here, the operation failing
first (R163). -/
def classify (mode : BitVec 2) (v : Half) : Option AddrField :=
  match mode.toNat with
  | 0 => some .absent
  | 1 => some (.rsv1 v)
  | 2 => some (.short v)
  | _ => none

/-- The tag of an AddrField at port level: the raw mode bits (30_encoding.md R87). -/
def AddrField.tag : AddrField → BitVec 2
  | .absent => Config.amNone
  | .rsv1 _ => Config.amRsv1
  | .short _ => Config.amShort

/-- The value bits of an AddrField at port level: none under tag 0 (10_state.md R29). -/
def AddrField.value? : AddrField → Option Half
  | .absent => none
  | .rsv1 v => some v
  | .short v => some v

end Sys2Proof.Machine
end

