-- ==== Sys2Proof/Machine/Flags.lean ====
section
/-! DEFINITION. The status, info and note outputs of a transaction: computed from it alone, never held
(10_state.md R22, R26). -/

namespace Sys2Proof.Machine

/-- note = (source mode is 1, destination mode is 1), the destination in bit 0 (40_fcf_codec.md R101,
60_exceptions.md R185). -/
def noteOf (dest_mode src_mode : BitVec 2) : BitVec 2 :=
  BitVec.ofBool (src_mode == Config.amRsv1) ++ BitVec.ofBool (dest_mode == Config.amRsv1)

/-- info: bit 0 destination Extended, bit 1 source Extended, bit 2 Intra-PAN clear (43_addressing.md R161,
60_exceptions.md R184). -/
def infoOf (intra_pan : BitVec 1) (dest_mode src_mode : BitVec 2) : BitVec 3 :=
  BitVec.ofBool (intra_pan == 0#1) ++ BitVec.ofBool (src_mode == Config.amExtended)
    ++ BitVec.ofBool (dest_mode == Config.amExtended)

/-- Port status (60_exceptions.md R181). -/
def Response.status : Response → BitVec 3
  | .ok _ _ => 0b000#3
  | .failed .truncatedBuffer => 0b001#3
  | .failed (.unrepresentableAddressing _) => 0b010#3
  | .failed .mtuExceeded => 0b011#3
  | .failed .illegalOp => 0b111#3

/-- Port info (60_exceptions.md R184): 000 but for UnrepresentableAddressing. -/
def Response.info : Response → BitVec 3
  | .failed (.unrepresentableAddressing info) => info
  | .failed .truncatedBuffer => 0b000#3
  | .failed .mtuExceeded => 0b000#3
  | .failed .illegalOp => 0b000#3
  | .ok _ _ => 0b000#3

/-- Port note (60_exceptions.md R185): 00 in every failing response. -/
def Response.note : Response → BitVec 2
  | .ok _ note => note
  | .failed _ => 0b00#2

/-- The result, which a failing response does not carry (10_state.md R30). -/
def Response.result? : Response → Option Result
  | .ok result _ => some result
  | .failed _ => none

end Sys2Proof.Machine
end

