-- ==== Sys2Proof/Machine/Ack.lean ====
section
/-! DEFINITION. ACKREQ (42_requires_ack.md). -/

namespace Sys2Proof.Machine

/-- The three conditions of 42_requires_ack.md R141 and no hidden fourth (R142). The contract is the spec's; it was inferred
there, not observed. UNVERIFIED, unsafe (log entry 11). -/
def requiresAck (frame_type : BitVec 3) (ack_req : BitVec 1) (dest : Half) : BitVec 1 :=
  BitVec.ofBool (frame_type != Config.ftAck && ack_req == 1#1 && dest != Config.broadcastAddr)

/-- What ACKREQ returns of a buffer (42_requires_ack.md R141). -/
def ackreqOf (b : Snapshot) : Except Stop (Result × BitVec 2) := do
  checkHeader b
  let fcf ← readLE16 b 1
  let dest ← readLE16 b 6
  let f := extractFields fcf
  return (.ackOut (requiresAck f.frame_type f.ack_req dest), 0b00#2)

/-- ACKREQ (42_requires_ack.md R141). -/
def execAckreq (b : Buffer) (s : State) : Host.Outcome State Fault Refusal :=
  finish s (ackreqOf (s.snapshot b))

end Sys2Proof.Machine
end

