-- ==== Sys2Proof/Machine/Addressing.lean ====
section
/-! DEFINITION. ADDRDEC (43_addressing.md). -/

namespace Sys2Proof.Machine

/-- The addressing decode proper, a function of the header's fields alone (90_conflicts.md C3): a failure with every
cause that holds (43_addressing.md R163, R164), or the three classified members, destPan under the destination's mode
(R165). The members have a classification exactly when no mode is Extended, so the last arm, which asks for
all three, is the failure of the whole operation. -/
def decodeAddressing (f : FrameControlFields) (destpan dest src : Half) : Except Stop (Result × BitVec 2) :=
  let info := infoOf f.intra_pan f.dest_mode f.src_mode
  if info ≠ 0b000#3 then
    .error (.raise (.unrepresentableAddressing info))
  else
    match classify f.dest_mode dest, classify f.src_mode src, classify f.dest_mode destpan with
    | some destAddress, some sourceAddress, some destPan =>
      .ok (.addrOut { destAddress, sourceAddress, destPan, pan_shared := f.intra_pan },
        noteOf f.dest_mode f.src_mode)
    | _, _, _ => .error (.raise (.unrepresentableAddressing info))

/-- What ADDRDEC returns of a buffer (43_addressing.md R161): the size check first (R170). -/
def addrdecOf (b : Snapshot) : Except Stop (Result × BitVec 2) := do
  checkHeader b
  let fcf ← readLE16 b 1
  let destpan ← readLE16 b 4
  let dest ← readLE16 b 6
  let src ← readLE16 b 8
  decodeAddressing (extractFields fcf) destpan dest src

/-- ADDRDEC (43_addressing.md R161). -/
def execAddrdec (b : Buffer) (s : State) : Host.Outcome State Fault Refusal :=
  finish s (addrdecOf (s.snapshot b))

end Sys2Proof.Machine
end

