-- ==== Sys2Proof/Machine/Codec.lean ====
section
/-! DEFINITION. FCFDEC and FCFENC (40_fcf_codec.md). -/

namespace Sys2Proof.Machine

/-- FCFDEC (40_fcf_codec.md R100): every 16-bit value has its nine fields; no failure. -/
def execFcfdec (raw : Half) (s : State) : Host.Outcome State Fault Refusal :=
  let f := extractFields raw
  finish s (.ok (.fldOut f, noteOf f.dest_mode f.src_mode))

/-- FCFENC (40_fcf_codec.md R102, R103): validates nothing; no failure. -/
def execFcfenc (f : FrameControlFields) (s : State) : Host.Outcome State Fault Refusal :=
  finish s (.ok (.fcfOut (insertFields f), noteOf f.dest_mode f.src_mode))

end Sys2Proof.Machine
end

