-- ==== Sys2Proof/Machine/Header.lean ====
section
/-! DEFINITION. HDRX and LENCHK (41_header_validate.md). -/

namespace Sys2Proof.Machine

/-- What HDRX returns of a buffer (41_header_validate.md R121, R122): the raw header, nothing validated but the size. -/
def hdrxOf (b : Snapshot) : Except Stop (Result × BitVec 2) := do
  checkHeader b
  let h ← readHeader b
  return (.hdrOut h, 0b00#2)

/-- HDRX (41_header_validate.md R121). -/
def execHdrx (b : Buffer) (s : State) : Host.Outcome State Fault Refusal :=
  finish s (hdrxOf (s.snapshot b))

/-- What LENCHK returns of a buffer (41_header_validate.md R125, R128): the size check, then the MTU invariant, and
nothing else. -/
def lenchkOf (b : Snapshot) : Except Stop (Result × BitVec 2) := do
  checkHeader b
  let length ← bufRead b 0
  if length.toNat > Config.linkMtu then
    .error (.raise .mtuExceeded)
  else
    return (.noResult, 0b00#2)

/-- LENCHK (41_header_validate.md R125). -/
def execLenchk (b : Buffer) (s : State) : Host.Outcome State Fault Refusal :=
  finish s (lenchkOf (s.snapshot b))

end Sys2Proof.Machine
end

