-- ==== Sys2Proof/Machine/Dispatch.lean ====
section
/-! DEFINITION. One arm per operation (30_encoding.md R80). -/

namespace Sys2Proof.Machine

def exec (i : Instr) (s : State) : Host.Outcome State Fault Refusal :=
  match i with
  | .fcfdec raw => Sys2Proof.Machine.execFcfdec raw s
  | .fcfenc f => Sys2Proof.Machine.execFcfenc f s
  | .ackreq buf => Sys2Proof.Machine.execAckreq buf s
  | .addrdec buf => Sys2Proof.Machine.execAddrdec buf s
  | .hdrx buf => Sys2Proof.Machine.execHdrx buf s
  | .lenchk buf => Sys2Proof.Machine.execLenchk buf s

end Sys2Proof.Machine
end

