-- ==== Sys2Proof/Machine/Step.lean ====
section
/-! DEFINITION. One step of a run: the host's next action, and FP154's answer when that action is a request
(70_reset_and_hazards.md R226). -/

namespace Sys2Proof.Machine

/-- With no action left FP154 "waits for a request" (70_reset_and_hazards.md R210) and the state stays as it is (log
entry 7). -/
def step (s : State) : Host.Outcome State Fault Refusal :=
  match s.inbox with
  | [] => .next s
  | .request r :: rest =>
    match decode r with
    | .op i => exec i { s with inbox := rest }
    | .reserved _ => answerReserved { s with inbox := rest }
  | .reset :: rest => .next { s with inbox := rest }.resetSignal
  | .requestCutByReset r :: rest => .next ({ s with inbox := rest }.cutTransaction r)

/-- The state in which the host's next action is the request of an opcode-table word (log entry 8). -/
def State.withFetchWord (s : State) (nbits w : Nat) : State :=
  { s with inbox := .request (requestOfTableWord nbits w) :: s.inbox }

end Sys2Proof.Machine
end

