-- ==== Sys2Proof/Safety.lean ====
section
/-! DEFINITION. The terms claims use: what a delivered response leaves behind, when two transactions answer alike,
which responses FP154 may give, and the invariant of a run. -/

namespace Sys2Proof.Machine

/-- From `s` to `t` exactly the response `r` was delivered: it stands last among the responses, and the host's coming
actions are as they were, every byte of their buffers included (60_exceptions.md R189, 20_memory.md R52). -/
def Delivered (s t : State) (r : Response) : Prop :=
  t.responses = s.responses ++ [r] ∧ t.inbox = s.inbox

/-- The operation completes in this state and its response is `r`. -/
def Answers (i : Instr) (s : State) (r : Response) : Prop :=
  ∃ t, exec i s = .next t ∧ Delivered s t r

/-- Both transactions complete, with the same response. -/
def AnswerAlike (i : Instr) (s : State) (i' : Instr) (s' : State) : Prop :=
  ∃ r, Answers i s r ∧ Answers i' s' r

/-- The two transactions read the same byte at an offset. -/
def SameByte (b b' : Snapshot) (off : Nat) : Prop := b.byteAt off = b'.byteAt off

/-- A note says of each mode whether it is the unused value 1 (60_exceptions.md R185). -/
def NoteSays (note : BitVec 2) (dest_mode src_mode : BitVec 2) : Prop :=
  (note.getLsbD 0 = true ↔ dest_mode = 1#2) ∧ (note.getLsbD 1 = true ↔ src_mode = 1#2)

/-- The responses FP154 may give: the note follows the modes where the operation writes one and is 00 elsewhere
(60_exceptions.md R185), the info of UnrepresentableAddressing has at least one bit set (R184), a FrameAddress
says pan_shared and has its destPan tagged as its destination (43_addressing.md R165). -/
def Response.Legal : Response → Prop
  | .ok (.fldOut f) note => NoteSays note f.dest_mode f.src_mode
  | .ok (.fcfOut v) note => NoteSays note (v.extractLsb' 10 2) (v.extractLsb' 14 2)
  | .ok (.ackOut _) note => note = 0b00#2
  | .ok (.addrOut a) note =>
    a.pan_shared = 1#1 ∧ a.destPan.tag = a.destAddress.tag ∧ NoteSays note a.destAddress.tag a.sourceAddress.tag
  | .ok (.hdrOut _) note => note = 0b00#2
  | .ok .noResult note => note = 0b00#2
  | .failed (.unrepresentableAddressing info) => info ≠ 0b000#3
  | .failed .truncatedBuffer => True
  | .failed .mtuExceeded => True
  | .failed .illegalOp => True

/-- A host action brings its buffer, if it has one, in the canonical form of the packet-buffer space. -/
def HostAction.wf : HostAction → Prop
  | .request r => r.buf.wf
  | .reset => True
  | .requestCutByReset r => r.buf.wf

/-- The invariant of a run: the buffers to come are in canonical form and every response given is one FP154 may
give. -/
structure State.Inv (s : State) : Prop where
  buffers_wf : ∀ a ∈ s.inbox, a.wf
  responses_legal : ∀ r ∈ s.responses, r.Legal

/-- A safe step: the machine does not stop. -/
def State.Steps (s : State) : Prop := ∃ t, step s = .next t

/-- The offsets an operation's result depends on (20_memory.md R62). -/
def resultOffsets : Instr → List Nat
  | .fcfdec _ => []
  | .fcfenc _ => []
  | .ackreq _ => [1, 6, 7]
  | .addrdec _ => [1, 2, 4, 5, 6, 7, 8, 9]
  | .hdrx _ => [0, 1, 2, 3, 4, 5, 6, 7, 8, 9]
  | .lenchk _ => [0]

/-- The four buffer operations, those of format F-BUF (30_encoding.md R77), on one buffer. -/
def bufferOps (b : Buffer) : List Instr := [.ackreq b, .addrdec b, .hdrx b, .lenchk b]

end Sys2Proof.Machine
end

