-- ==== Sys2Proof/Certificates/Slice0/Obligations.lean ====
section
/-! DEFINITION. The statements for the provers. Each docstring names what of spec/ it formalises; where a clause rests
on a decision of the spec, an inference it marks as its own, or a choice of this model, it says so. `Delivered`
(Sys2Proof/Safety.lean) says that the one response was added and that the host's coming actions, with every byte of
the buffers they bring, are as before: it is the frame. -/

open Sys2Proof Sys2Proof.Machine

/- ### Decoding and presenting requests -/

/-- Presenting a well-formed operation and decoding the request gives it back, with every operand at every value the
ports admit (30_encoding.md R77, R80; the select codes are the spec's decision D3, the port width of buf_len is log
entry 5). -/
def Obligations.DecodeOfEncodeIsTheOperation : Prop :=
  ∀ i : Instr, i.wellFormed = true → decode (encode i) = .op i

/-- What decodes to an operation is well formed, and its encoding agrees with the request in the select and, port by
port, in the operand its format looks at (30_encoding.md R77, 10_state.md R31: decisions D2, D33). -/
def Obligations.EncodeOfDecodeKeepsTheUsedPorts : Prop :=
  ∀ (r : Request) (i : Instr), decode r = .op i →
    i.wellFormed = true ∧ (encode i).op = r.op ∧
    (r.op = 0b000#3 → (encode i).fcf_in = r.fcf_in) ∧
    (r.op = 0b001#3 → (encode i).fld_in = r.fld_in) ∧
    (2 ≤ r.op.toNat → (encode i).buf_len = r.buf_len ∧ (encode i).buf = r.buf)

/-- The operation map of 30_encoding.md R80 and the reserved codes of R81, on written-out requests (the codes are the spec's
decisions D3 and D6). -/
def Obligations.SelectCodesNameTheOperations : Prop :=
  decode ⟨0b000#3, 0#8, [], 0x8861#16, zeroFields⟩ = .op (.fcfdec 0x8861#16) ∧
  decode ⟨0b001#3, 0#8, [], 0#16, ⟨1#3, 0#1, 0#1, 0#1, 1#1, 0#3, 2#2, 0#2, 2#2⟩⟩ =
    .op (.fcfenc ⟨1#3, 0#1, 0#1, 0#1, 1#1, 0#3, 2#2, 0#2, 2#2⟩) ∧
  decode ⟨0b010#3, 12#8, [(0, 0x0B#8)], 0#16, zeroFields⟩ = .op (.ackreq ⟨12, [(0, 0x0B#8)]⟩) ∧
  decode ⟨0b011#3, 12#8, [(0, 0x0B#8)], 0#16, zeroFields⟩ = .op (.addrdec ⟨12, [(0, 0x0B#8)]⟩) ∧
  decode ⟨0b100#3, 9#8, [(0, 0x0B#8)], 0#16, zeroFields⟩ = .op (.hdrx ⟨9, [(0, 0x0B#8)]⟩) ∧
  decode ⟨0b101#3, 10#8, [(0, 0x0B#8)], 0#16, zeroFields⟩ = .op (.lenchk ⟨10, [(0, 0x0B#8)]⟩) ∧
  decode ⟨0b110#3, 12#8, [], 0x8861#16, zeroFields⟩ = .reserved 0b110#3 ∧
  decode ⟨0b111#3, 12#8, [], 0x8861#16, zeroFields⟩ = .reserved 0b111#3

/- ### The step -/

/-- A step whose next action is a request that decodes to an operation is that operation's meaning in the state without
the request. The list of the host's actions is this model's form of 70_reset_and_hazards.md section 6 (log entry 1). -/
def Obligations.StepRunsTheDecodedOperation : Prop :=
  ∀ (s : State) (r : Request) (rest : List HostAction) (i : Instr),
    s.inbox = .request r :: rest → decode r = .op i → step s = exec i { s with inbox := rest }

/-- Every presented request is answered by exactly one response, and the step changes nothing else of the host's: the
later actions stay, every byte of the buffers they bring included (00_scope.md R13, 20_memory.md R52: decisions D1, D24). -/
def Obligations.EveryRequestGetsExactlyOneResponse : Prop :=
  ∀ (s : State) (r : Request) (rest : List HostAction),
    s.inbox = .request r :: rest →
      ∃ (t : State) (a : Response), step s = .next t ∧ Delivered { s with inbox := rest } t a

/-- No step stops, in any state: no operation reads at or past `Buf.len`, none blocks, and a failure is a response
(20_memory.md section 3, 60_exceptions.md section 3, 70_reset_and_hazards.md section 5, decision D30). That a step with no
action left goes on unchanged is this model's reading (log entry 7). -/
def Obligations.NoStepEverStops : Prop := ∀ s : State, s.Steps

/-- A reserved operation select is answered IllegalOp, with info 000, note 00 and no result, whatever the operand ports
and the buffer hold, the empty buffer included (30_encoding.md R81, 60_exceptions.md R188: decision D6). -/
def Obligations.ReservedSelectAnswersIllegalOp : Prop :=
  ∀ (s : State) (r : Request) (rest : List HostAction),
    s.inbox = .request r :: rest → (r.op = 0b110#3 ∨ r.op = 0b111#3) →
      ∃ t a, step s = .next t ∧ Delivered { s with inbox := rest } t a ∧
        a = .failed .illegalOp ∧ a.status = 0b111#3 ∧ a.info = 0b000#3 ∧ a.note = 0b00#2 ∧ a.result? = none

/-- With no action left the step leaves the state as it is: FP154 "waits for a request" (70_reset_and_hazards.md
section 1; log entry 7 is this model's reading of the wait). -/
def Obligations.WaitingForARequestChangesNothing : Prop :=
  ∀ s : State, s.inbox = [] → step s = .next s

/-- Reset between transactions has no architectural effect; a transaction cut by reset has no response and changes
nothing else, whatever the host does next; and the same request presented again is answered as the cut one would have
been, by the very state the uncut one leads to (70_reset_and_hazards.md R210, R211: decision D28). -/
def Obligations.ResetHasNoArchitecturalEffect : Prop :=
  (∀ (s : State) (rest : List HostAction),
    s.inbox = .reset :: rest → step s = .next { s with inbox := rest }) ∧
  (∀ (s : State) (r : Request) (rest : List HostAction),
    s.inbox = .requestCutByReset r :: rest → step s = .next { s with inbox := rest }) ∧
  (∀ (s : State) (r : Request) (rest : List HostAction),
    s.inbox = .requestCutByReset r :: .request r :: rest →
      ∃ t, step s = .next t ∧ t.responses = s.responses ∧ t.inbox = .request r :: rest ∧
        step t = step { s with inbox := .request r :: rest })

/-- A byte the host changes between two transactions is seen in full by the second: HDRX of a buffer, then HDRX of the
buffer with the byte at one offset changed, delivers the header whose ten bytes are those of the first with that one
changed, and the first itself where the offset is 10 or more (20_memory.md R57, which the spec marks as derived; premise
R214). -/
def Obligations.HostStoreIsSeenByTheNextTransaction : Prop :=
  ∀ (b : Buffer) (off : Nat) (v : Byte) (s : State), 10 ≤ b.len → b.backed →
    ∃ t h h', exec (.hdrx b) s = .next t ∧ Delivered s t (.ok (.hdrOut h) 0b00#2) ∧
      Answers (.hdrx (b.store off v)) t (.ok (.hdrOut h') 0b00#2) ∧ hdrBytes h' = (hdrBytes h).set off v

/-- The buffer of a list of bytes holds them at offsets 0, 1, … and no byte at any other offset, is in canonical form, and
meets the host's premise when its length is stated as it is or less (20_memory.md section 1, 70_reset_and_hazards.md
section 2; that a request brings its buffer is log entry 1). -/
def Obligations.HostPlacedBufferHoldsItsBytes : Prop :=
  ∀ bytes : List Byte,
    (∀ a, (Buffer.ofBytes bytes).bytes.read? a = bytes[a]?) ∧ (Buffer.ofBytes bytes).bytes.wf ∧
    ∀ n ≤ bytes.length, ({ Buffer.ofBytes bytes with len := n } : Buffer).backed

/- ### The invariant of a run -/

/-- Every step keeps the invariant: the buffers to come stay in canonical form and every response given is one FP154
may give (notes, info and pan_shared as 60_exceptions.md R184, R185 and 43_addressing.md R165 say: decisions D10, D17,
D18). -/
def Obligations.EveryStepKeepsTheInvariant : Prop :=
  ∀ s t : State, s.Inv → step s = .next t → t.Inv

/-- The invariant holds right after reset (what stands around FP154 at reset is this model's choice, log entries 4
and 6). -/
def Obligations.InvariantHoldsAtReset : Prop := State.reset.Inv

/-- A run over any list of requests ends after as many steps as there are requests, with every request answered, in
order, by the response it gets when presented alone. The premise, on the requests of the four buffer operations only, is
R214's: the host has the bytes below the stated length (70_reset_and_hazards.md R214, R217, R226: decisions D26, D32). -/
def Obligations.RunAnswersEveryRequestAsIfAlone : Prop :=
  ∀ (rs : List Request) (s : State),
    (∀ r ∈ rs, 2 ≤ r.op.toNat → r.op.toNat ≤ 5 → r.buffer.backed) →
      ∃ (t : State) (answers : List Response),
        core.run rs.length ({ s with inbox := rs.map .request } : State) = .next t ∧
        t.inbox = [] ∧ t.responses = s.responses ++ answers ∧
        List.Forall₂
          (fun r a => ∃ u, step { s with inbox := [.request r] } = .next u ∧ u.responses = s.responses ++ [a])
          rs answers

/-- Two transactions do not interfere, on one buffer or on two: presented in either order each gets the same response
(20_memory.md R60, 70_reset_and_hazards.md R218; premise R214). -/
def Obligations.TransactionsInEitherOrderAnswerAlike : Prop :=
  ∀ (s : State) (i j : Instr) (b c : Buffer),
    i ∈ bufferOps b → j ∈ bufferOps c → b.backed → c.backed →
      ∃ t u t' u' x y,
        exec i s = .next t ∧ Delivered s t x ∧ exec j t = .next u ∧ Delivered t u y ∧
        exec j s = .next t' ∧ Delivered s t' y ∧ exec i t' = .next u' ∧ Delivered t' u' x

/-- The same request gives the same response, whatever came before: an operation is answered alike in any two states,
whatever the earlier responses, the host's further actions and the number of the transaction are; a buffer operation
on any two buffers of one stated length that hold the same bytes below it, under the premise that the host has them
(70_reset_and_hazards.md R217 with its premise R214, 40_fcf_codec.md R107). -/
def Obligations.SameRequestGivesSameResponse : Prop :=
  (∀ (raw : Half) (s s' : State), AnswerAlike (.fcfdec raw) s (.fcfdec raw) s') ∧
  (∀ (f : FrameControlFields) (s s' : State), AnswerAlike (.fcfenc f) s (.fcfenc f) s') ∧
  (∀ (b b' : Buffer) (k : Nat) (i i' : Instr) (s s' : State),
    (bufferOps b)[k]? = some i → (bufferOps b')[k]? = some i' → b.len = b'.len →
    (∀ a < b.len, b.bytes.read? a = b'.bytes.read? a) → b.backed → AnswerAlike i s i' s')

/-- Unused operand ports are ignored: two requests with one select and the same values on the ports their format looks
at are answered alike, whatever the other ports hold, for FCFDEC, FCFENC and the reserved selects the buffer among them
(10_state.md R31, decision D33; premise R214 for the buffer operations). -/
def Obligations.UnusedPortsAreIgnored : Prop :=
  ∀ (s s' : State) (r r' : Request) (rest rest' : List HostAction),
    s.inbox = .request r :: rest → s'.inbox = .request r' :: rest' → r.op = r'.op →
    (r.op = 0b000#3 → r.fcf_in = r'.fcf_in) → (r.op = 0b001#3 → r.fld_in = r'.fld_in) →
    (2 ≤ r.op.toNat → r.op.toNat ≤ 5 → r.buf_len = r'.buf_len ∧
      (∀ a < r.buf_len.toNat, r.buf.read? a = r'.buf.read? a) ∧ r.buffer.backed) →
      ∃ t t' a, step s = .next t ∧ Delivered { s with inbox := rest } t a ∧
        step s' = .next t' ∧ Delivered { s' with inbox := rest' } t' a

/-- No operation writes: after any operation the host's coming actions are as before, every byte of the buffers they bring
included, every byte the host has in a buffer reads as before, and the earlier responses stand, followed by exactly one
(20_memory.md R52: decision D24). -/
def Obligations.NoOperationWritesTheBuffer : Prop :=
  ∀ (i : Instr) (s t : State), exec i s = .next t →
    t.inbox = s.inbox ∧
    (∀ (b : Buffer) (off : Nat), (b.bytes.read? off).isSome → SameByte (t.snapshot b) (s.snapshot b) off) ∧
    ∃ r, t.responses = s.responses ++ [r]

/-- Nothing of a transaction stays but its response: two requests that are answered alike, whatever their operations,
operands and buffers are, lead to one and the same state (10_state.md R24, R34, 00_scope.md R13: decision D1; that State
holds the coming requests and the responses is log entry 1). -/
def Obligations.NothingOfATransactionStays : Prop :=
  ∀ (s t t' : State) (r r' : Request) (rest : List HostAction),
    step { s with inbox := .request r :: rest } = .next t →
    step { s with inbox := .request r' :: rest } = .next t' → t.responses = t'.responses → t = t'

/- ### FCFDEC and FCFENC -/

/-- FCFDEC completes on every 16-bit value in every state and delivers its nine fields, with the note saying of each
mode whether it is 1 (40_fcf_codec.md R100; the note's bits are the spec's decision D10). -/
def Obligations.FcfdecDeliversTheNineFields : Prop :=
  ∀ (raw : Half) (s : State), ∃ (t : State) (f : FrameControlFields) (note : BitVec 2),
    exec (.fcfdec raw) s = .next t ∧ Delivered s t (.ok (.fldOut f) note) ∧
    f.frame_type = raw.extractLsb' 0 3 ∧ f.security = raw.extractLsb' 3 1 ∧ f.pending = raw.extractLsb' 4 1 ∧
    f.ack_req = raw.extractLsb' 5 1 ∧ f.intra_pan = raw.extractLsb' 6 1 ∧ f.rsv7_9 = raw.extractLsb' 7 3 ∧
    f.dest_mode = raw.extractLsb' 10 2 ∧ f.rsv12_13 = raw.extractLsb' 12 2 ∧ f.src_mode = raw.extractLsb' 14 2 ∧
    (note.getLsbD 0 = true ↔ raw.extractLsb' 10 2 = 1#2) ∧ (note.getLsbD 1 = true ↔ raw.extractLsb' 14 2 = 1#2)

/-- FCFENC completes on every record in every state, validates nothing and delivers the word in which each member stands
at its place, "the or is also their sum", with the note saying of each mode whether it is 1 (40_fcf_codec.md R102, R103;
the note's bits are the spec's decision D10, the width of the members D8). -/
def Obligations.FcfencPutsEveryMemberInItsPlace : Prop :=
  ∀ (f : FrameControlFields) (s : State), ∃ (t : State) (v : Half) (note : BitVec 2),
    exec (.fcfenc f) s = .next t ∧ Delivered s t (.ok (.fcfOut v) note) ∧
    v.toNat = f.frame_type.toNat + 2 ^ 3 * f.security.toNat + 2 ^ 4 * f.pending.toNat + 2 ^ 5 * f.ack_req.toNat
      + 2 ^ 6 * f.intra_pan.toNat + 2 ^ 7 * f.rsv7_9.toNat + 2 ^ 10 * f.dest_mode.toNat
      + 2 ^ 12 * f.rsv12_13.toNat + 2 ^ 14 * f.src_mode.toNat ∧
    (note.getLsbD 0 = true ↔ f.dest_mode = 1#2) ∧ (note.getLsbD 1 = true ↔ f.src_mode = 1#2)

/-- The round-trip law: FCFENC of a record, then FCFDEC of what it delivers in whatever state, delivers the record, and
the two notes are equal (40_fcf_codec.md R104). -/
def Obligations.FcfdecOfFcfencIsTheRecord : Prop :=
  ∀ (f : FrameControlFields) (s : State), ∃ (t : State) (v : Half) (note : BitVec 2),
    exec (.fcfenc f) s = .next t ∧ Delivered s t (.ok (.fcfOut v) note) ∧
    ∀ s', ∃ t', exec (.fcfdec v) s' = .next t' ∧ Delivered s' t' (.ok (.fldOut f) note)

/-- The re-serialisation law: FCFDEC of a word, then FCFENC of what it delivers in whatever state, delivers the word,
reserved bits included, and the two notes are equal (40_fcf_codec.md R105, which the spec marks as derived). -/
def Obligations.FcfencOfFcfdecIsTheWord : Prop :=
  ∀ (x : Half) (s : State), ∃ (t : State) (f : FrameControlFields) (note : BitVec 2),
    exec (.fcfdec x) s = .next t ∧ Delivered s t (.ok (.fldOut f) note) ∧
    ∀ s', ∃ t', exec (.fcfenc f) s' = .next t' ∧ Delivered s' t' (.ok (.fcfOut x) note)

/-- Bit isolation: inverting one bit of the word changes the one member whose in-place mask has that bit, and no other
of the nine (40_fcf_codec.md R106 with the masks of 30_encoding.md R71, which the spec marks as derived). -/
def Obligations.InvertingOneBitChangesOneMember : Prop :=
  ∀ (x : Half) (b : Nat) (s s' : State), b < 16 →
    ∃ (f g : FrameControlFields) (n m : BitVec 2),
      Answers (.fcfdec x) s (.ok (.fldOut f) n) ∧
      Answers (.fcfdec (x ^^^ (1#16 <<< b))) s' (.ok (.fldOut g) m) ∧
      (f.frame_type ≠ g.frame_type ↔ (0x0007#16).getLsbD b = true) ∧
      (f.security ≠ g.security ↔ (0x0008#16).getLsbD b = true) ∧
      (f.pending ≠ g.pending ↔ (0x0010#16).getLsbD b = true) ∧
      (f.ack_req ≠ g.ack_req ↔ (0x0020#16).getLsbD b = true) ∧
      (f.intra_pan ≠ g.intra_pan ↔ (0x0040#16).getLsbD b = true) ∧
      (f.rsv7_9 ≠ g.rsv7_9 ↔ (0x0380#16).getLsbD b = true) ∧
      (f.dest_mode ≠ g.dest_mode ↔ (0x0C00#16).getLsbD b = true) ∧
      (f.rsv12_13 ≠ g.rsv12_13 ↔ (0x3000#16).getLsbD b = true) ∧
      (f.src_mode ≠ g.src_mode ↔ (0xC000#16).getLsbD b = true)

/-- The edit of 70_reset_and_hazards.md R222: FCFDEC, change one member, FCFENC changes the bits of that member and no
other bit, reserved ones included; here for Ack Request (derived from 40_fcf_codec.md sections 1 to 3). -/
def Obligations.EditingAckRequestKeepsTheOtherBits : Prop :=
  ∀ (x : Half) (v : BitVec 1) (s s' : State), ∃ (f : FrameControlFields) (n m : BitVec 2) (y : Half),
    Answers (.fcfdec x) s (.ok (.fldOut f) n) ∧
    Answers (.fcfenc { f with ack_req := v }) s' (.ok (.fcfOut y) m) ∧
    ∀ k < 16, y.getLsbD k = if k = 5 then v.getLsbD 0 else x.getLsbD k

/-- The reserved FCF bits are carried and interpreted by no operation: FCFDEC delivers them in rsv7_9 and rsv12_13,
FCFENC puts them back where they were, HDRX delivers them inside fcf, and ACKREQ, ADDRDEC and LENCHK answer alike on
two buffers that differ in them only; no value of them fails a transaction (30_encoding.md R75). -/
def Obligations.ReservedFcfBitsAreCarried : Prop :=
  (∀ (x : Half) (s : State), ∃ f note, Answers (.fcfdec x) s (.ok (.fldOut f) note) ∧
    f.rsv7_9 = x.extractLsb' 7 3 ∧ f.rsv12_13 = x.extractLsb' 12 2) ∧
  (∀ (f : FrameControlFields) (s : State), ∃ v note, Answers (.fcfenc f) s (.ok (.fcfOut v) note) ∧
    v.extractLsb' 7 3 = f.rsv7_9 ∧ v.extractLsb' 12 2 = f.rsv12_13) ∧
  (∀ (b : Buffer) (s : State), 10 ≤ b.len → ∃ h, Answers (.hdrx b) s (.ok (.hdrOut h) 0b00#2) ∧
    h.fcf.getLsbD 7 = ((s.snapshot b).byteAt 1).getLsbD 7 ∧ h.fcf.getLsbD 8 = ((s.snapshot b).byteAt 2).getLsbD 0 ∧
    h.fcf.getLsbD 9 = ((s.snapshot b).byteAt 2).getLsbD 1 ∧ h.fcf.getLsbD 12 = ((s.snapshot b).byteAt 2).getLsbD 4 ∧
    h.fcf.getLsbD 13 = ((s.snapshot b).byteAt 2).getLsbD 5) ∧
  (∀ (b b' : Buffer) (s s' : State), (b.len < 10 ↔ b'.len < 10) →
    (s.snapshot b).byteAt 1 &&& 0x7F#8 = (s'.snapshot b').byteAt 1 &&& 0x7F#8 →
    (s.snapshot b).byteAt 2 &&& 0xCC#8 = (s'.snapshot b').byteAt 2 &&& 0xCC#8 →
    (∀ off < 10, off ≠ 1 → off ≠ 2 → SameByte (s.snapshot b) (s'.snapshot b') off) →
      AnswerAlike (.ackreq b) s (.ackreq b') s' ∧ AnswerAlike (.addrdec b) s (.addrdec b') s' ∧
      AnswerAlike (.lenchk b) s (.lenchk b') s')

/- ### The size check and the failures -/

/-- Every buffer operation first compares Buf.len with 10: below it, TruncatedBuffer, whatever the buffer holds and
with nothing read (the response is fixed without it); from 10 on never TruncatedBuffer; and no access is ever out of
range (20_memory.md R53, 41_header_validate.md R120). -/
def Obligations.SizeCheckComesFirstInEveryBufferOperation : Prop :=
  (∀ (b : Buffer) (i : Instr) (s : State), i ∈ bufferOps b → b.len < 10 → Answers i s (.failed .truncatedBuffer)) ∧
  (∀ (b : Buffer) (i : Instr) (s : State), i ∈ bufferOps b → 10 ≤ b.len →
    ∃ r, Answers i s r ∧ r ≠ .failed .truncatedBuffer) ∧
  (∀ (i : Instr) (s : State) (off : Nat), exec i s ≠ .fault (.readPastBuffer off))

/-- TruncatedBuffer is the response of the four buffer operations exactly when Buf.len is below 10, with info 000, and
never the response of FCFDEC or FCFENC (60_exceptions.md R182). -/
def Obligations.TruncatedBufferExactlyBelowTen : Prop :=
  (∀ (b : Buffer) (i : Instr) (s : State), i ∈ bufferOps b →
    (Answers i s (.failed .truncatedBuffer) ↔ b.len < 10)) ∧
  (∀ (raw : Half) (s : State), ¬ Answers (.fcfdec raw) s (.failed .truncatedBuffer)) ∧
  (∀ (f : FrameControlFields) (s : State), ¬ Answers (.fcfenc f) s (.failed .truncatedBuffer)) ∧
  Response.info (.failed .truncatedBuffer) = 0b000#3

/-- UnrepresentableAddressing is raised by ADDRDEC only, and by it, when the size check passes, exactly when the
destination mode is 3, the source mode is 3 or the Intra-PAN bit is 0 (60_exceptions.md R183). -/
def Obligations.UnrepresentableAddressingByAddrdecOnly : Prop :=
  (∀ (b : Buffer) (s : State), 10 ≤ b.len →
    ((∃ info, Answers (.addrdec b) s (.failed (.unrepresentableAddressing info))) ↔
      (((s.snapshot b).byteAt 2).extractLsb' 2 2 = 3#2 ∨ ((s.snapshot b).byteAt 2).extractLsb' 6 2 = 3#2 ∨
        ((s.snapshot b).byteAt 1).getLsbD 6 = false))) ∧
  (∀ (i : Instr) (s : State) (info : BitVec 3), Answers i s (.failed (.unrepresentableAddressing info)) →
    ∃ b, i = .addrdec b)

/-- MtuExceeded is raised by LENCHK only, and by it exactly when Buf.len is at least 10 and the length byte exceeds
127, with info 000; the offending length can be had from HDRX (60_exceptions.md R186). -/
def Obligations.MtuExceededByLenchkOnly : Prop :=
  (∀ (b : Buffer) (s : State),
    Answers (.lenchk b) s (.failed .mtuExceeded) ↔ 10 ≤ b.len ∧ 127 < ((s.snapshot b).byteAt 0).toNat) ∧
  (∀ (i : Instr) (s : State), Answers i s (.failed .mtuExceeded) → ∃ b, i = .lenchk b) ∧
  Response.info (.failed .mtuExceeded) = 0b000#3 ∧
  (∀ (b : Buffer) (s : State), Answers (.lenchk b) s (.failed .mtuExceeded) →
    ∃ h, Answers (.hdrx b) s (.ok (.hdrOut h) 0b00#2) ∧ h.length = (s.snapshot b).byteAt 0)

/-- The status codes of 60_exceptions.md R181 (the spec's decision D4), on every response; 100, 101 and 110 are never
produced; info is 000 except with UnrepresentableAddressing (R184), note is 00 in every failing response (R185), and a
failing response carries no result (10_state.md R30, decision D21). -/
def Obligations.StatusInfoAndNoteAtThePorts : Prop :=
  ∀ r : Response,
    (r.status = 0b000#3 ↔ ∃ result note, r = .ok result note) ∧
    (r.status = 0b001#3 ↔ r = .failed .truncatedBuffer) ∧
    (r.status = 0b010#3 ↔ ∃ info, r = .failed (.unrepresentableAddressing info)) ∧
    (r.status = 0b011#3 ↔ r = .failed .mtuExceeded) ∧
    (r.status = 0b111#3 ↔ r = .failed .illegalOp) ∧
    r.status ≠ 0b100#3 ∧ r.status ≠ 0b101#3 ∧ r.status ≠ 0b110#3 ∧
    (r.status ≠ 0b010#3 → r.info = 0b000#3) ∧
    (r.status ≠ 0b000#3 → r.note = 0b00#2) ∧
    (r.result?.isSome ↔ r.status = 0b000#3)

/-- Every operation ends only in the kinds the matrix of 60_exceptions.md R192 gives it, with the result port of that
operation and no other, and with a note other than 00 only from FCFDEC, FCFENC and a successful ADDRDEC (the spec
marks R192 as derived; the notes are decision D10). -/
def Obligations.OperationsEndOnlyInTheirKinds : Prop :=
  ∀ (i : Instr) (s : State) (r : Response), Answers i s r →
    match i with
    | .fcfdec _ => ∃ f note, r = .ok (.fldOut f) note
    | .fcfenc _ => ∃ v note, r = .ok (.fcfOut v) note
    | .ackreq _ => (∃ b, r = .ok (.ackOut b) 0b00#2) ∨ r = .failed .truncatedBuffer
    | .addrdec _ => (∃ a note, r = .ok (.addrOut a) note) ∨ r = .failed .truncatedBuffer ∨
        ∃ info, info ≠ 0b000#3 ∧ r = .failed (.unrepresentableAddressing info)
    | .hdrx _ => (∃ h, r = .ok (.hdrOut h) 0b00#2) ∨ r = .failed .truncatedBuffer
    | .lenchk _ => r = .ok .noResult 0b00#2 ∨ r = .failed .truncatedBuffer ∨ r = .failed .mtuExceeded

/-- Every kind the matrix of 60_exceptions.md R192 calls possible is reached, by the operation in some state, the notes
included (the spec marks R192 as derived; the notes are decision D10). -/
def Obligations.EveryPossibleKindIsReached : Prop :=
  (∃ raw s f note, note ≠ 0b00#2 ∧ Answers (.fcfdec raw) s (.ok (.fldOut f) note)) ∧
  (∃ f s v note, note ≠ 0b00#2 ∧ Answers (.fcfenc f) s (.ok (.fcfOut v) note)) ∧
  (∃ b s, Answers (.ackreq b) s (.ok (.ackOut 1#1) 0b00#2)) ∧
  (∃ b s, Answers (.ackreq b) s (.ok (.ackOut 0#1) 0b00#2)) ∧
  (∃ b s a note, note ≠ 0b00#2 ∧ Answers (.addrdec b) s (.ok (.addrOut a) note)) ∧
  (∃ b s info, Answers (.addrdec b) s (.failed (.unrepresentableAddressing info))) ∧
  (∃ b s h, Answers (.hdrx b) s (.ok (.hdrOut h) 0b00#2)) ∧
  (∃ b s, Answers (.lenchk b) s (.ok .noResult 0b00#2)) ∧
  (∃ b s, Answers (.lenchk b) s (.failed .mtuExceeded)) ∧
  (∃ b s, ∀ i ∈ bufferOps b, Answers i s (.failed .truncatedBuffer))

/-- The offsets of 20_memory.md R62: once the size check passes, a buffer operation's response depends on the bytes at
its listed offsets and on nothing else, neither on how far Buf.len exceeds 10 (R61, decision D14) nor on any byte
from offset 10 on (the spec marks R62 as derived). -/
def Obligations.ResponseDependsOnTheListedOffsetsOnly : Prop :=
  ∀ (b b' : Buffer) (s s' : State) (i i' : Instr) (k : Nat), 10 ≤ b.len → 10 ≤ b'.len →
    (bufferOps b)[k]? = some i → (bufferOps b')[k]? = some i' →
    (∀ off ∈ resultOffsets i, SameByte (s.snapshot b) (s'.snapshot b') off) → AnswerAlike i s i' s'

/- ### HDRX and LENCHK -/

/-- HDRX completes in every state: below 10 bytes TruncatedBuffer, else the raw header, six members little-endian from
offsets 0 to 9 whatever the bytes are, with note 00 (41_header_validate.md R121, R122, 20_memory.md R44, R45; the operation
is the spec's decision D11, the note D10). -/
def Obligations.HdrxDeliversTheRawHeader : Prop :=
  ∀ (b : Buffer) (s : State),
    (b.len < 10 → Answers (.hdrx b) s (.failed .truncatedBuffer)) ∧
    (10 ≤ b.len → ∃ t h, exec (.hdrx b) s = .next t ∧ Delivered s t (.ok (.hdrOut h) 0b00#2) ∧
      h.length = (s.snapshot b).byteAt 0 ∧
      h.fcf.toNat = ((s.snapshot b).byteAt 1).toNat + 256 * ((s.snapshot b).byteAt 2).toNat ∧
      h.dsn = (s.snapshot b).byteAt 3 ∧
      h.destpan.toNat = ((s.snapshot b).byteAt 4).toNat + 256 * ((s.snapshot b).byteAt 5).toNat ∧
      h.dest.toNat = ((s.snapshot b).byteAt 6).toNat + 256 * ((s.snapshot b).byteAt 7).toNat ∧
      h.src.toNat = ((s.snapshot b).byteAt 8).toNat + 256 * ((s.snapshot b).byteAt 9).toNat)

/-- HDRX inverts the layout: of the ten bytes of a header, in the order of 20_memory.md R55, and any bytes after them it
delivers the header; and the layout of the header it delivers is the first ten bytes of the buffer
(41_header_validate.md R123, which the spec marks as derived). -/
def Obligations.HdrxInvertsTheLayout : Prop :=
  (∀ (h : CombinedHeader) (tail : List Byte) (s : State),
    Answers
      (.hdrx (.ofBytes
        ([h.length, h.fcf.extractLsb' 0 8, h.fcf.extractLsb' 8 8, h.dsn, h.destpan.extractLsb' 0 8,
          h.destpan.extractLsb' 8 8, h.dest.extractLsb' 0 8, h.dest.extractLsb' 8 8, h.src.extractLsb' 0 8,
          h.src.extractLsb' 8 8] ++ tail)))
      s (.ok (.hdrOut h) 0b00#2)) ∧
  (∀ (bytes : List Byte) (s : State), 10 ≤ bytes.length →
    ∃ h, Answers (.hdrx (.ofBytes bytes)) s (.ok (.hdrOut h) 0b00#2) ∧ hdrBytes h = bytes.take 10)

/-- LENCHK completes in every state: below 10 bytes TruncatedBuffer, else OK with no result exactly when the length byte
is at most 127, small ones included, and MtuExceeded above (41_header_validate.md R125, R128; the operation and the name
are the spec's decision D12, what it does not check D14). -/
def Obligations.LenchkEnforcesTheMtuInvariant : Prop :=
  ∀ (b : Buffer) (s : State),
    (b.len < 10 → Answers (.lenchk b) s (.failed .truncatedBuffer)) ∧
    (10 ≤ b.len → ((s.snapshot b).byteAt 0).toNat ≤ 127 →
      ∃ t, exec (.lenchk b) s = .next t ∧ Delivered s t (.ok .noResult 0b00#2)) ∧
    (10 ≤ b.len → 127 < ((s.snapshot b).byteAt 0).toNat → Answers (.lenchk b) s (.failed .mtuExceeded))

/-- LENCHK alone enforces the MTU invariant: with any other length byte stored at offset 0, ACKREQ and ADDRDEC answer
alike and HDRX's header differs in its length only (41_header_validate.md R126, decision D13). -/
def Obligations.OnlyLenchkLooksAtTheLengthByte : Prop :=
  ∀ (b : Buffer) (s : State) (v : Byte),
    AnswerAlike (.ackreq b) s (.ackreq (b.store 0 v)) s ∧
    AnswerAlike (.addrdec b) s (.addrdec (b.store 0 v)) s ∧
    (10 ≤ b.len → ∃ h, Answers (.hdrx b) s (.ok (.hdrOut h) 0b00#2) ∧
      Answers (.hdrx (b.store 0 v)) s (.ok (.hdrOut { h with length := v }) 0b00#2))

/-- The payload region: for 9 <= length <= 127 the length - 9 bytes at offsets 10 to length, at most 118, ending with
the frame; for no other length (20_memory.md R47, R48, 93_implementation_defined.md U4). -/
def Obligations.PayloadExtentOnlyForLegalLengths : Prop :=
  ∀ length : Byte,
    (9 ≤ length.toNat ∧ length.toNat ≤ 127 → ∃ size, payloadExtent length = some (10, size) ∧
      size = length.toNat - 9 ∧ size ≤ 118 ∧ 10 + size = frameBytes length ∧ frameBytes length = length.toNat + 1) ∧
    (length.toNat < 9 ∨ 127 < length.toNat → payloadExtent length = none)

/- ### ACKREQ -/

/-- ACKREQ completes in every state: below 10 bytes TruncatedBuffer, else 1 exactly when the frame type is not 2, the Ack
Request bit is 1 and dest is not 0xFFFF, with note 00 (42_requires_ack.md R141, R146; the contract is the source's inference,
log entry 11; the note is the spec's decision D10). -/
def Obligations.AckreqHasExactlyThreeConditions : Prop :=
  ∀ (b : Buffer) (s : State),
    (b.len < 10 → Answers (.ackreq b) s (.failed .truncatedBuffer)) ∧
    (10 ≤ b.len → ∃ t a, exec (.ackreq b) s = .next t ∧ Delivered s t (.ok (.ackOut a) 0b00#2) ∧
      (a = 1#1 ↔ ((s.snapshot b).byteAt 1).toNat % 8 ≠ 2 ∧ ((s.snapshot b).byteAt 1).getLsbD 5 = true ∧
        ((s.snapshot b).byteAt 6).toNat + 256 * ((s.snapshot b).byteAt 7).toNat ≠ 0xFFFF))

/-- The source's four properties of the predicate, for any buffer of at least 10 bytes (42_requires_ack.md R145): false on a
broadcast with Ack Request set, false on an Ack frame whatever Ack Request is, true and false on the two concrete
cases. -/
def Obligations.AckSuppressionAndConcreteCases : Prop :=
  ∀ (b : Buffer) (s : State), 10 ≤ b.len →
    (((s.snapshot b).byteAt 1).getLsbD 5 = true → (s.snapshot b).byteAt 6 = 0xFF#8 → (s.snapshot b).byteAt 7 = 0xFF#8 →
      ∃ note, Answers (.ackreq b) s (.ok (.ackOut 0#1) note)) ∧
    (((s.snapshot b).byteAt 1).extractLsb' 0 3 = 2#3 → ∃ note, Answers (.ackreq b) s (.ok (.ackOut 0#1) note)) ∧
    (((s.snapshot b).byteAt 1).extractLsb' 0 3 = 1#3 → ((s.snapshot b).byteAt 1).getLsbD 5 = true →
      (s.snapshot b).byteAt 6 = 0x34#8 → (s.snapshot b).byteAt 7 = 0x12#8 →
      ∃ note, Answers (.ackreq b) s (.ok (.ackOut 1#1) note)) ∧
    (((s.snapshot b).byteAt 1).extractLsb' 0 3 = 1#3 → ((s.snapshot b).byteAt 1).getLsbD 5 = false →
      (s.snapshot b).byteAt 6 = 0x34#8 → (s.snapshot b).byteAt 7 = 0x12#8 →
      ∃ note, Answers (.ackreq b) s (.ok (.ackOut 0#1) note))

/-- No hidden fourth condition: two buffers, both of at least ten bytes or both shorter, with the same frame type, Ack
Request bit and dest bytes are answered alike, whatever the modes, the other FCF bits, dsn, destpan, src and the length
byte of each are (42_requires_ack.md R142, decision D22). -/
def Obligations.AckreqHasNoHiddenCondition : Prop :=
  ∀ (b b' : Buffer) (s s' : State), (b.len < 10 ↔ b'.len < 10) →
    (s.snapshot b).byteAt 1 &&& 0x27#8 = (s'.snapshot b').byteAt 1 &&& 0x27#8 →
    SameByte (s.snapshot b) (s'.snapshot b') 6 → SameByte (s.snapshot b) (s'.snapshot b') 7 →
      AnswerAlike (.ackreq b) s (.ackreq b') s'

/- ### ADDRDEC -/

/-- ADDRDEC completes in every state. Below 10 bytes: TruncatedBuffer. With Intra-PAN set and neither mode Extended: OK
with the three members classified, destPan under the destination mode, pan_shared 1 and the note of the modes.
Otherwise: UnrepresentableAddressing, with each info bit set exactly when its cause holds (43_addressing.md R161, R168;
decisions D10, D15 to D19). -/
def Obligations.AddrdecClassifiesOrReportsEveryCause : Prop :=
  ∀ (b : Buffer) (s : State) (intra : Bool) (dm sm : BitVec 2) (D S P : Half),
    intra = ((s.snapshot b).byteAt 1).getLsbD 6 → dm = ((s.snapshot b).byteAt 2).extractLsb' 2 2 →
    sm = ((s.snapshot b).byteAt 2).extractLsb' 6 2 →
    P.toNat = ((s.snapshot b).byteAt 4).toNat + 256 * ((s.snapshot b).byteAt 5).toNat →
    D.toNat = ((s.snapshot b).byteAt 6).toNat + 256 * ((s.snapshot b).byteAt 7).toNat →
    S.toNat = ((s.snapshot b).byteAt 8).toNat + 256 * ((s.snapshot b).byteAt 9).toNat →
    (b.len < 10 → Answers (.addrdec b) s (.failed .truncatedBuffer)) ∧
    (10 ≤ b.len → intra = true ∧ dm ≠ 3#2 ∧ sm ≠ 3#2 → ∃ t a note,
      exec (.addrdec b) s = .next t ∧ Delivered s t (.ok (.addrOut a) note) ∧
      (dm = 0#2 → a.destAddress = .absent ∧ a.destPan = .absent) ∧
      (dm = 1#2 → a.destAddress = .rsv1 D ∧ a.destPan = .rsv1 P) ∧
      (dm = 2#2 → a.destAddress = .short D ∧ a.destPan = .short P) ∧
      (sm = 0#2 → a.sourceAddress = .absent) ∧ (sm = 1#2 → a.sourceAddress = .rsv1 S) ∧
      (sm = 2#2 → a.sourceAddress = .short S) ∧
      a.pan_shared = 1#1 ∧ (note.getLsbD 0 = true ↔ dm = 1#2) ∧ (note.getLsbD 1 = true ↔ sm = 1#2)) ∧
    (10 ≤ b.len → ¬ (intra = true ∧ dm ≠ 3#2 ∧ sm ≠ 3#2) → ∃ info,
      Answers (.addrdec b) s (.failed (.unrepresentableAddressing info)) ∧
      (info.getLsbD 0 = true ↔ dm = 3#2) ∧ (info.getLsbD 1 = true ↔ sm = 3#2) ∧
      (info.getLsbD 2 = true ↔ intra = false))

/-- Mode value 1 in ADDRDEC is not a failure: the field is delivered as Rsv1 with its note bit, destPan with the
destination. The other causes still apply: a mode of 1 beside Intra-PAN clear, or with the other mode Extended, fails
with exactly the causes that hold, and destination 1 with source 3 (Intra-PAN set) with info 010 (43_addressing.md
R166). -/
def Obligations.AddrdecCarriesModeOneThrough : Prop :=
  ∀ (b : Buffer) (s : State) (intra : Bool) (dm sm : BitVec 2), 10 ≤ b.len →
    intra = ((s.snapshot b).byteAt 1).getLsbD 6 → dm = ((s.snapshot b).byteAt 2).extractLsb' 2 2 →
    sm = ((s.snapshot b).byteAt 2).extractLsb' 6 2 →
    (dm = 1#2 → sm ≠ 3#2 → intra = true →
      ∃ (a : FrameAddress) (note : BitVec 2) (D P : Half), Answers (.addrdec b) s (.ok (.addrOut a) note) ∧
        note.getLsbD 0 = true ∧ a.destAddress = .rsv1 D ∧ a.destPan = .rsv1 P ∧
        D.toNat = ((s.snapshot b).byteAt 6).toNat + 256 * ((s.snapshot b).byteAt 7).toNat ∧
        P.toNat = ((s.snapshot b).byteAt 4).toNat + 256 * ((s.snapshot b).byteAt 5).toNat) ∧
    (sm = 1#2 → dm ≠ 3#2 → intra = true →
      ∃ (a : FrameAddress) (note : BitVec 2) (S : Half), Answers (.addrdec b) s (.ok (.addrOut a) note) ∧
        note.getLsbD 1 = true ∧ a.sourceAddress = .rsv1 S ∧
        S.toNat = ((s.snapshot b).byteAt 8).toNat + 256 * ((s.snapshot b).byteAt 9).toNat) ∧
    (dm = 1#2 → sm = 3#2 → intra = true →
      Answers (.addrdec b) s (.failed (.unrepresentableAddressing 0b010#3))) ∧
    (dm = 1#2 ∨ sm = 1#2 → intra = false ∨ dm = 3#2 ∨ sm = 3#2 → ∃ info,
      Answers (.addrdec b) s (.failed (.unrepresentableAddressing info)) ∧
        (info.getLsbD 0 = true ↔ dm = 3#2) ∧ (info.getLsbD 1 = true ↔ sm = 3#2) ∧
        (info.getLsbD 2 = true ↔ intra = false))

/-- Mode None: the member is Absent (under destination mode None destAddress and, tagged by the same mode, destPan: R165),
and the bytes of its field are ignored, so that the response is the same whatever stands there; with both modes None and
Intra-PAN set the response is OK with three Absent members and pan_shared 1 (43_addressing.md R167). -/
def Obligations.AddrdecIgnoresTheBytesOfModeNone : Prop :=
  ∀ (b : Buffer) (s : State),
    (((s.snapshot b).byteAt 2).extractLsb' 2 2 = 0#2 →
      (∀ a note, Answers (.addrdec b) s (.ok (.addrOut a) note) → a.destAddress = .absent ∧ a.destPan = .absent) ∧
      ∀ lo hi plo phi, AnswerAlike (.addrdec b) s
        (.addrdec ((((b.store 6 lo).store 7 hi).store 4 plo).store 5 phi)) s) ∧
    (((s.snapshot b).byteAt 2).extractLsb' 6 2 = 0#2 →
      (∀ a note, Answers (.addrdec b) s (.ok (.addrOut a) note) → a.sourceAddress = .absent) ∧
      ∀ lo hi, AnswerAlike (.addrdec b) s (.addrdec ((b.store 8 lo).store 9 hi)) s) ∧
    (10 ≤ b.len → ((s.snapshot b).byteAt 1).getLsbD 6 = true → ((s.snapshot b).byteAt 2).extractLsb' 2 2 = 0#2 →
      ((s.snapshot b).byteAt 2).extractLsb' 6 2 = 0#2 →
      ∃ note, Answers (.addrdec b) s (.ok (.addrOut ⟨.absent, .absent, .absent, 1#1⟩) note))

/-- ADDRDEC looks at nothing but Intra-PAN, the two modes and offsets 4 to 9: two buffers, both of at least ten bytes or
both shorter, that agree in these are answered alike, whatever the frame type, the other flags, the reserved bits, dsn
and the length byte of each are (43_addressing.md R169, which the spec marks as derived). -/
def Obligations.AddrdecIgnoresEverythingElse : Prop :=
  ∀ (b b' : Buffer) (s s' : State), (b.len < 10 ↔ b'.len < 10) →
    ((s.snapshot b).byteAt 1).getLsbD 6 = ((s'.snapshot b').byteAt 1).getLsbD 6 →
    (s.snapshot b).byteAt 2 &&& 0xCC#8 = (s'.snapshot b').byteAt 2 &&& 0xCC#8 →
    (∀ off, 4 ≤ off → off < 10 → SameByte (s.snapshot b) (s'.snapshot b') off) →
      AnswerAlike (.addrdec b) s (.addrdec b') s'
end

