-- ==== Sys2Proof/Laws/Memory.lean ====
section
/-! SUPPORT. The laws of the packet-buffer space: read after write, and that every operation keeps the canonical
form. -/

namespace Sys2Proof.Machine

@[simp] theorem read?_nil (a : Nat) : Memory.read? [] a = none := rfl

theorem read?_cons (k : Nat) (v : Byte) (m : Memory) (a : Nat) :
    Memory.read? ((k, v) :: m) a = if k = a then some v else m.read? a := rfl

/-- A read after a write to the same offset gives the byte written. -/
@[simp] theorem read?_write_same (m : Memory) (a : Nat) (v : Byte) : (m.write a v).read? a = some v := by
  induction m with
  | nil => simp [Memory.write, Memory.read?]
  | cons c m ih =>
    obtain ⟨k, w⟩ := c
    simp only [Memory.write]
    split
    · simp [Memory.read?]
    · split
      · simp [Memory.read?]
      · next h₂ => simp [Memory.read?, Ne.symm h₂, ih]

/-- A write leaves every other offset alone. -/
theorem read?_write_other (m : Memory) {a b : Nat} (v : Byte) (h : b ≠ a) :
    (m.write a v).read? b = m.read? b := by
  induction m with
  | nil => simp [Memory.write, Memory.read?, Ne.symm h]
  | cons c m ih =>
    obtain ⟨k, w⟩ := c
    simp only [Memory.write]
    split
    · simp [Memory.read?, Ne.symm h]
    · split
      · next h₂ => subst h₂; simp [Memory.read?, Ne.symm h]
      · simp [Memory.read?, ih]

/-- The offsets of a written space are those it had and the one written. -/
theorem mem_write {m : Memory} {a : Nat} {v : Byte} {c : Host.Cell} (h : c ∈ m.write a v) :
    c = (a, v) ∨ c ∈ m := by
  induction m with
  | nil => simpa [Memory.write] using h
  | cons d m ih =>
    obtain ⟨k, w⟩ := d
    simp only [Memory.write] at h
    split at h
    · simpa using h
    · split at h
      · rcases List.mem_cons.mp h with h | h
        · exact .inl h
        · exact .inr (List.mem_cons_of_mem _ h)
      · rcases List.mem_cons.mp h with h | h
        · exact .inr (h ▸ List.mem_cons_self)
        · exact (ih h).imp_right (List.mem_cons_of_mem _)

/-- A write keeps the canonical form. -/
theorem write_wf {m : Memory} (h : m.wf) (a : Nat) (v : Byte) : (m.write a v).wf := by
  induction m with
  | nil => simp [Memory.write]
  | cons c m ih =>
    obtain ⟨k, w⟩ := c
    obtain ⟨hk, hm⟩ := List.pairwise_cons.mp h
    simp only [Memory.write]
    split
    · next hlt =>
      refine List.pairwise_cons.mpr ⟨fun d hd => ?_, h⟩
      rcases List.mem_cons.mp hd with rfl | hd
      · exact hlt
      · exact Nat.lt_trans hlt (hk d hd)
    · split
      · next heq => exact List.pairwise_cons.mpr ⟨fun d hd => heq ▸ hk d hd, hm⟩
      · refine List.pairwise_cons.mpr ⟨fun d hd => ?_, ih hm⟩
        rcases mem_write hd with rfl | hd
        · simp only; omega
        · exact hk d hd

/-- Every offset of a space laid out from `a` on is at least `a`. -/
theorem le_of_mem_ofBytesFrom {a : Nat} {bs : List Byte} {c : Host.Cell} (h : c ∈ Memory.ofBytesFrom a bs) :
    a ≤ c.1 := by
  induction bs generalizing a with
  | nil => simp [Memory.ofBytesFrom] at h
  | cons b bs ih =>
    rcases List.mem_cons.mp h with rfl | h
    · exact Nat.le_refl _
    · exact Nat.le_of_succ_le (ih h)

theorem ofBytesFrom_wf (a : Nat) (bs : List Byte) : (Memory.ofBytesFrom a bs).wf := by
  induction bs generalizing a with
  | nil => simp [Memory.ofBytesFrom]
  | cons b bs ih => exact List.pairwise_cons.mpr ⟨fun _ hc => le_of_mem_ofBytesFrom hc, ih (a + 1)⟩

/-- A supplied buffer is in canonical form. -/
theorem ofBytes_wf (bs : List Byte) : (Memory.ofBytes bs).wf := ofBytesFrom_wf 0 bs

theorem read?_ofBytesFrom (a : Nat) (bs : List Byte) (i : Nat) :
    (Memory.ofBytesFrom a bs).read? (a + i) = bs[i]? := by
  induction bs generalizing a i with
  | nil => simp [Memory.ofBytesFrom]
  | cons b bs ih =>
    cases i with
    | zero => simp [Memory.ofBytesFrom, Memory.read?]
    | succ i =>
      have h : a + (i + 1) = a + 1 + i := by omega
      simp only [Memory.ofBytesFrom, read?_cons, h, ih]
      simp; omega

/-- A supplied buffer holds its bytes in offset order and nothing else. -/
@[simp] theorem read?_ofBytes (bs : List Byte) (i : Nat) : (Memory.ofBytes bs).read? i = bs[i]? := by
  simpa [Memory.ofBytes] using read?_ofBytesFrom 0 bs i

/-- The memory of a bare request, the one of an opcode-table word, is in canonical form. -/
theorem bareRequest_wf (op : BitVec 3) : (bareRequest op).buf.wf := List.Pairwise.nil

/-- No buffer stands around the machine at reset. -/
theorem reset_inbox : State.reset.inbox = [] := rfl

/-- Behind the read port stands the host's byte where it has one. -/
theorem byteAt_of_read? {b : Snapshot} {off : Nat} {v : Byte} (h : b.bytes.read? off = some v) :
    b.byteAt off = v := by
  simp [Snapshot.byteAt, h]

/-- Of bytes the host has, the number of the transaction says nothing. -/
theorem byteAt_of_isSome {b b' : Snapshot} {off : Nat} (hm : b'.bytes.read? off = b.bytes.read? off)
    (h : (b.bytes.read? off).isSome) : b'.byteAt off = b.byteAt off := by
  obtain ⟨v, hv⟩ := Option.isSome_iff_exists.mp h
  rw [byteAt_of_read? hv, byteAt_of_read? (hm.trans hv)]

end Sys2Proof.Machine
end

