-- ==== Sys2Proof/Laws/State.lean ====
section
/-! SUPPORT. One lemma per field per update of State and of the buffer operand, so that no proof unfolds a record update. -/

namespace Sys2Proof.Machine

@[simp] theorem deliver_inbox (s : State) (r : Response) : (s.deliver r).inbox = s.inbox := rfl
@[simp] theorem deliver_responses (s : State) (r : Response) :
    (s.deliver r).responses = s.responses ++ [r] := rfl
@[simp] theorem deliver_draws (s : State) (r : Response) : (s.deliver r).draws = s.draws + 1 := rfl

@[simp] theorem resetSignal_eq (s : State) : s.resetSignal = s := rfl
@[simp] theorem cutTransaction_eq (s : State) (r : Request) : s.cutTransaction r = s := rfl

@[simp] theorem snapshot_toBuffer (s : State) (b : Buffer) : (s.snapshot b).toBuffer = b := rfl
@[simp] theorem snapshot_draw (s : State) (b : Buffer) : (s.snapshot b).draw = s.draws := rfl
@[simp] theorem store_len (b : Buffer) (off : Nat) (v : Byte) : (b.store off v).len = b.len := rfl
@[simp] theorem store_bytes (b : Buffer) (off : Nat) (v : Byte) : (b.store off v).bytes = b.bytes.write off v := rfl
@[simp] theorem ofBytes_len (bs : List Byte) : (Buffer.ofBytes bs).len = bs.length := rfl
@[simp] theorem ofBytes_bytes (bs : List Byte) : (Buffer.ofBytes bs).bytes = Memory.ofBytes bs := rfl
@[simp] theorem buffer_len (r : Request) : r.buffer.len = r.buf_len.toNat := rfl
@[simp] theorem buffer_bytes (r : Request) : r.buffer.bytes = r.buf := rfl

@[simp] theorem withFetchWord_inbox (s : State) (nbits w : Nat) :
    (s.withFetchWord nbits w).inbox = .request (requestOfTableWord nbits w) :: s.inbox := rfl
@[simp] theorem withFetchWord_responses (s : State) (nbits w : Nat) :
    (s.withFetchWord nbits w).responses = s.responses := rfl
@[simp] theorem withFetchWord_draws (s : State) (nbits w : Nat) : (s.withFetchWord nbits w).draws = s.draws := rfl

/-- A delivery is a delivery, whatever was delivered. -/
theorem delivered_deliver (s : State) (r : Response) : Delivered s (s.deliver r) r :=
  ⟨rfl, rfl⟩

end Sys2Proof.Machine
end

