-- ==== Sys2Proof/Laws/Ops.lean ====
section
/-! SUPPORT. What each shared operation does, said once: a proof cites these and does not unfold the operation. -/

namespace Sys2Proof.Machine

/-- BufRead below the stated length gives the byte there. -/
theorem bufRead_of_lt {b : Snapshot} {off : Nat} (h : off < b.len) : bufRead b off = .ok (b.byteAt off) :=
  if_pos h

/-- BufRead past the stated length stops the machine. -/
theorem bufRead_of_le {b : Snapshot} {off : Nat} (h : b.len ≤ off) :
    bufRead b off = .error (.fault (.readPastBuffer off)) :=
  if_neg (Nat.not_lt.mpr h)

/-- LE16 below the stated length gives both bytes, the lower offset's less significant. -/
theorem readLE16_of_lt {b : Snapshot} {off : Nat} (h : off + 1 < b.len) :
    readLE16 b off = .ok (le16 (b.byteAt off) (b.byteAt (off + 1))) := by
  simp only [readLE16, bufRead_of_lt (Nat.lt_of_succ_lt h), bufRead_of_lt h]; rfl

/-- The size check fails below 10. -/
theorem checkHeader_of_lt {b : Snapshot} (h : b.len < 10) : checkHeader b = .error (.raise .truncatedBuffer) :=
  if_pos h

/-- The size check passes from 10 on. -/
theorem checkHeader_of_le {b : Snapshot} (h : 10 ≤ b.len) : checkHeader b = .ok () :=
  if_neg (Nat.not_lt.mpr h)

/-- The number a little-endian pair stands for. -/
theorem le16_toNat (lo hi : Byte) : (le16 lo hi).toNat = lo.toNat + 256 * hi.toNat := by
  have hlo := lo.isLt
  have hhi := hi.isLt
  have h : (le16 lo hi).toNat = 2 ^ 8 * hi.toNat ||| lo.toNat := by
    simp only [le16, BitVec.toNat_or, BitVec.toNat_setWidth, BitVec.toNat_shiftLeft, Nat.shiftLeft_eq]
    rw [Nat.or_comm, Nat.mod_eq_of_lt (by omega : lo.toNat < 2 ^ 16), Nat.mod_eq_of_lt (by omega : hi.toNat < 2 ^ 16),
      Nat.mod_eq_of_lt (by omega : hi.toNat * 2 ^ 8 < 2 ^ 16), Nat.mul_comm]
  rw [h, ← Nat.two_pow_add_eq_or_of_lt hlo]
  omega

/-- The header of a buffer of at least 10 bytes. -/
theorem readHeader_of_le {b : Snapshot} (h : 10 ≤ b.len) :
    readHeader b = .ok
      { length := b.byteAt 0
        fcf := le16 (b.byteAt 1) (b.byteAt 2)
        dsn := b.byteAt 3
        destpan := le16 (b.byteAt 4) (b.byteAt 5)
        dest := le16 (b.byteAt 6) (b.byteAt 7)
        src := le16 (b.byteAt 8) (b.byteAt 9) } := by
  simp only [readHeader, bufRead_of_lt (show 0 < b.len by omega), bufRead_of_lt (show 3 < b.len by omega),
    readLE16_of_lt (show 1 + 1 < b.len by omega), readLE16_of_lt (show 4 + 1 < b.len by omega),
    readLE16_of_lt (show 6 + 1 < b.len by omega), readLE16_of_lt (show 8 + 1 < b.len by omega)]
  rfl

/-- The end of a transaction, in its three cases. -/
theorem finish_ok (s : State) (result : Result) (note : BitVec 2) :
    finish s (.ok (result, note)) = .next (s.deliver (.ok result note)) := rfl

theorem finish_raise (s : State) (f : Failure) :
    finish s (.error (.raise f)) = .next (s.deliver (.failed f)) := rfl

theorem finish_fault (s : State) (f : Fault) : finish s (.error (.fault f)) = .fault f := rfl

/-- Whatever next state ends a transaction, it is the delivery of one response. -/
theorem finish_next {s t : State} {e : Except Stop (Result × BitVec 2)} (h : finish s e = .next t) :
    ∃ r, t = s.deliver r := by
  match e, h with
  | .ok (result, note), h => exact ⟨.ok result note, (Host.Outcome.next.inj h).symm⟩
  | .error (.raise f), h => exact ⟨.failed f, (Host.Outcome.next.inj h).symm⟩

/-- The four addressing mode values. -/
theorem mode_cases (mode : BitVec 2) : mode = 0#2 ∨ mode = 1#2 ∨ mode = 2#2 ∨ mode = 3#2 := by
  revert mode; decide

/-- A mode has a classification exactly when it is not Extended. -/
theorem classify_isSome (mode : BitVec 2) (v : Half) : (classify mode v).isSome ↔ mode ≠ 3#2 := by
  rcases mode_cases mode with rfl | rfl | rfl | rfl <;> simp [classify]

/-- The tag of a classification is the mode itself. -/
theorem classify_tag {mode : BitVec 2} {v : Half} {a : AddrField} (h : classify mode v = some a) : a.tag = mode := by
  rcases mode_cases mode with rfl | rfl | rfl | rfl <;> simp [classify] at h <;> subst h <;> rfl

/-- The note says of each mode whether it is 1. -/
theorem noteOf_says (dest_mode src_mode : BitVec 2) : NoteSays (noteOf dest_mode src_mode) dest_mode src_mode := by
  revert dest_mode src_mode; unfold NoteSays; decide

/-- No cause holds exactly when Intra-PAN is set and neither mode is Extended. -/
theorem infoOf_eq_zero (intra_pan : BitVec 1) (dest_mode src_mode : BitVec 2) :
    infoOf intra_pan dest_mode src_mode = 0b000#3 ↔ intra_pan = 1#1 ∧ dest_mode ≠ 3#2 ∧ src_mode ≠ 3#2 := by
  revert intra_pan dest_mode src_mode; decide

end Sys2Proof.Machine
end

