-- ==== Sys2Proof/Laws/Operands.lean ====
section
/-! SUPPORT. The operand operations bit by bit: little-endian assembly, the FCF's fields, and the addressing decode. -/

namespace Sys2Proof.Machine

/-- The bits of a little-endian pair: the lower byte's, then the higher's. -/
theorem le16_getLsbD (lo hi : Byte) (k : Nat) :
    (le16 lo hi).getLsbD k = if k < 8 then lo.getLsbD k else hi.getLsbD (k - 8) := by
  simp only [le16, BitVec.getLsbD_or, BitVec.getLsbD_setWidth, BitVec.getLsbD_shiftLeft]
  by_cases h : k < 8
  · simp [h, show k < 16 by omega]
  · have hlo : lo.getLsbD k = false := BitVec.getLsbD_of_ge _ _ (by omega)
    by_cases h16 : k < 16
    · simp [h, h16, hlo]; omega
    · have hhi : hi.getLsbD (k - 8) = false := BitVec.getLsbD_of_ge _ _ (by omega)
      simp [h, h16, hlo, hhi]

/-- Every member is a bit field of the word at its place. -/
theorem extractFields_eq (x : Half) :
    extractFields x =
      { frame_type := x.extractLsb' 0 3, security := x.extractLsb' 3 1, pending := x.extractLsb' 4 1,
        ack_req := x.extractLsb' 5 1, intra_pan := x.extractLsb' 6 1, rsv7_9 := x.extractLsb' 7 3,
        dest_mode := x.extractLsb' 10 2, rsv12_13 := x.extractLsb' 12 2, src_mode := x.extractLsb' 14 2 } := by
  simp only [extractFields, FrameControlFields.mk.injEq]
  refine ⟨?_, ?_, ?_, ?_, ?_, ?_, ?_, ?_, ?_⟩ <;> (ext i hi; simp)

/-- Every bit of an assembled word is the bit of the member at its place. -/
theorem insertFields_getLsbD (f : FrameControlFields) (k : Nat) :
    (insertFields f).getLsbD k =
      if k < 3 then f.frame_type.getLsbD k
      else if k < 4 then f.security.getLsbD (k - 3)
      else if k < 5 then f.pending.getLsbD (k - 4)
      else if k < 6 then f.ack_req.getLsbD (k - 5)
      else if k < 7 then f.intra_pan.getLsbD (k - 6)
      else if k < 10 then f.rsv7_9.getLsbD (k - 7)
      else if k < 12 then f.dest_mode.getLsbD (k - 10)
      else if k < 14 then f.rsv12_13.getLsbD (k - 12)
      else f.src_mode.getLsbD (k - 14) := by
  by_cases hk : k < 16
  · interval_cases k <;> simp [insertFields, BitVec.getLsbD_of_ge]
  · rw [BitVec.getLsbD_of_ge _ _ (by omega)]
    repeat rw [if_neg (by omega)]
    rw [BitVec.getLsbD_of_ge _ _ (by omega)]

/-- The addressing decode succeeds exactly when no cause of failure holds, with every member classified; otherwise it
fails with the causes. -/
theorem decodeAddressing_cases (f : FrameControlFields) (destpan dest src : Half) :
    (f.intra_pan = 1#1 ∧ f.dest_mode ≠ 3#2 ∧ f.src_mode ≠ 3#2 ∧
      ∃ destAddress sourceAddress destPan,
        classify f.dest_mode dest = some destAddress ∧ classify f.src_mode src = some sourceAddress ∧
        classify f.dest_mode destpan = some destPan ∧
        decodeAddressing f destpan dest src =
          .ok (.addrOut { destAddress, sourceAddress, destPan, pan_shared := 1#1 },
            noteOf f.dest_mode f.src_mode)) ∨
    (¬ (f.intra_pan = 1#1 ∧ f.dest_mode ≠ 3#2 ∧ f.src_mode ≠ 3#2) ∧
      decodeAddressing f destpan dest src =
        .error (.raise (.unrepresentableAddressing (infoOf f.intra_pan f.dest_mode f.src_mode)))) := by
  by_cases h : infoOf f.intra_pan f.dest_mode f.src_mode = 0b000#3
  · obtain ⟨hi, hd, hs⟩ := (infoOf_eq_zero _ _ _).mp h
    obtain ⟨da, hda⟩ := Option.isSome_iff_exists.mp ((classify_isSome f.dest_mode dest).mpr hd)
    obtain ⟨sa, hsa⟩ := Option.isSome_iff_exists.mp ((classify_isSome f.src_mode src).mpr hs)
    obtain ⟨dp, hdp⟩ := Option.isSome_iff_exists.mp ((classify_isSome f.dest_mode destpan).mpr hd)
    refine .inl ⟨hi, hd, hs, da, sa, dp, hda, hsa, hdp, ?_⟩
    simp only [decodeAddressing, hda, hsa, hdp, hi]
    simp [hi ▸ h]
  · exact .inr ⟨fun hc => h ((infoOf_eq_zero _ _ _).mpr hc), by simp [decodeAddressing, h]⟩

end Sys2Proof.Machine
end

