-- ==== Sys2Proof/Laws/PerInstr.lean ====
section
/-! SUPPORT. Facts about every operation as syntax, one lemma per constructor. -/

namespace Sys2Proof.Laws.SelectCode

/-- An encoded operation carries one of the six select codes of 30_encoding.md R80, never a reserved one. -/
def Statement (i : Instr) : Prop := (encode i).op.toNat < 6

theorem fcfdec (raw : Half) : Statement (.fcfdec raw) := show 0 < 6 by decide
theorem fcfenc (f : FrameControlFields) : Statement (.fcfenc f) := show 1 < 6 by decide
theorem ackreq (buf : Buffer) : Statement (.ackreq buf) := show 2 < 6 by decide
theorem addrdec (buf : Buffer) : Statement (.addrdec buf) := show 3 < 6 by decide
theorem hdrx (buf : Buffer) : Statement (.hdrx buf) := show 4 < 6 by decide
theorem lenchk (buf : Buffer) : Statement (.lenchk buf) := show 5 < 6 by decide

end Sys2Proof.Laws.SelectCode
end

