-- ==== Sys2Proof/Machine/Text.lean ====
section
/-! DEFINITION. The textual syntax of the spec (30_encoding.md R84, R86): one line for a request and one for its response, as
lists of characters. Nothing of a step depends on it. Which responses show their note is read from the examples of
R84: those of FCFDEC, FCFENC and ADDRDEC. DEDUCED, safe (log entry 12). -/

namespace Sys2Proof.Machine.Text

/-- The opening brace of a record. -/
def openBrace : Char := Char.ofNat 123
/-- The closing brace of a record. -/
def closeBrace : Char := Char.ofNat 125

/-- One hexadecimal digit. -/
def hexDigit (n : Nat) : Char :=
  if n < 10 then Char.ofNat (48 + n) else Char.ofNat (55 + n)

/-- A byte as two hexadecimal digits. -/
def hexByte (v : Byte) : List Char := [hexDigit (v.toNat / 16), hexDigit (v.toNat % 16)]

/-- A byte as a number: 0x and two digits. -/
def hex8 (v : Byte) : List Char := ['0', 'x'] ++ hexByte v

/-- A 16-bit value as a number: 0x and four digits. -/
def hex16 (v : Half) : List Char := ['0', 'x'] ++ hexByte ((v >>> 8).setWidth 8) ++ hexByte (v.setWidth 8)

/-- A member's value, which has one decimal digit. -/
def digit (n : Nat) : List Char := [hexDigit n]

/-- Bits, the most significant first. -/
def bits (w : Nat) (v : BitVec w) : List Char :=
  (List.range w).reverse.map fun i => if v.getLsbD i then '1' else '0'

/-- A word of ASCII text. -/
def word (s : String) : List Char := s.toList

/-- name=value pairs between braces, separated by spaces. -/
def record (members : List (List Char)) : List Char :=
  [openBrace] ++ (members.intersperse [' ']).flatten ++ [closeBrace]

/-- name=value -/
def member (name : String) (value : List Char) : List Char := word name ++ ['='] ++ value

/-- A FrameControlFields value in the member order of 10_state.md R27. -/
def fields (f : FrameControlFields) : List Char :=
  record
    [ member "frame_type" (digit f.frame_type.toNat), member "security" (digit f.security.toNat),
      member "pending" (digit f.pending.toNat), member "ack_req" (digit f.ack_req.toNat),
      member "intra_pan" (digit f.intra_pan.toNat), member "rsv7_9" (digit f.rsv7_9.toNat),
      member "dest_mode" (digit f.dest_mode.toNat), member "rsv12_13" (digit f.rsv12_13.toNat),
      member "src_mode" (digit f.src_mode.toNat) ]

/-- A CombinedHeader value. -/
def header (h : CombinedHeader) : List Char :=
  record
    [ member "length" (hex8 h.length), member "fcf" (hex16 h.fcf), member "dsn" (hex8 h.dsn),
      member "destpan" (hex16 h.destpan), member "dest" (hex16 h.dest), member "src" (hex16 h.src) ]

/-- An AddrField value. -/
def addrField : AddrField → List Char
  | .absent => word "Absent"
  | .short v => word "Short(" ++ hex16 v ++ [')']
  | .rsv1 v => word "Rsv1(" ++ hex16 v ++ [')']

/-- A FrameAddress value. -/
def frameAddress (a : FrameAddress) : List Char :=
  record
    [ member "destAddress" (addrField a.destAddress), member "sourceAddress" (addrField a.sourceAddress),
      member "destPan" (addrField a.destPan), member "pan_shared" (digit a.pan_shared.toNat) ]

/-- A buffer operand: its bytes in offset order between square brackets, as many as the stated length. -/
def buffer (b : Snapshot) : List Char :=
  ['['] ++ (((List.range b.len).map fun off => hexByte (b.byteAt off)).intersperse [' ']).flatten ++ [']']

/-- The request line `MNEMONIC operand` of an operation presented in a state. -/
def request (i : Instr) (s : State) : List Char :=
  match i with
  | .fcfdec raw => word "FCFDEC " ++ hex16 raw
  | .fcfenc f => word "FCFENC " ++ fields f
  | .ackreq b => word "ACKREQ " ++ buffer (s.snapshot b)
  | .addrdec b => word "ADDRDEC " ++ buffer (s.snapshot b)
  | .hdrx b => word "HDRX " ++ buffer (s.snapshot b)
  | .lenchk b => word "LENCHK " ++ buffer (s.snapshot b)

/-- The response text after `->`: OK with the result, and the note from the operations that write one; a failure as its
kind, with info for UnrepresentableAddressing. -/
def response : Response → List Char
  | .ok (.fldOut f) note => word "OK " ++ fields f ++ word " note=" ++ bits 2 note
  | .ok (.fcfOut v) note => word "OK " ++ hex16 v ++ word " note=" ++ bits 2 note
  | .ok (.ackOut v) _ => word "OK " ++ digit v.toNat
  | .ok (.addrOut a) note => word "OK " ++ frameAddress a ++ word " note=" ++ bits 2 note
  | .ok (.hdrOut h) _ => word "OK " ++ header h
  | .ok .noResult _ => word "OK"
  | .failed .truncatedBuffer => word "TruncatedBuffer"
  | .failed (.unrepresentableAddressing info) => word "UnrepresentableAddressing info=" ++ bits 3 info
  | .failed .mtuExceeded => word "MtuExceeded"
  | .failed .illegalOp => word "IllegalOp"

end Sys2Proof.Machine.Text
end

