-- ==== Sys2Proof/Tests/Slice0.lean ====
section
/-! SUPPORT. Tests. Expected results are the spec's: 95_test_vectors.md (named by vector), the worked examples of the
operation rules, or words written out from 30_encoding.md. -/

namespace Sys2Proof.Tests

open Sys2Proof.Machine

/-- Frame A of 95_test_vectors.md. -/
def frameA : List Byte :=
  [0x0B#8, 0x61#8, 0x88#8, 0x2A#8, 0x22#8, 0x00#8, 0x34#8, 0x12#8, 0x78#8, 0x56#8, 0xAB#8, 0xCD#8]

/-- What the first transaction after reset sees of the buffer of these bytes. -/
def seen (bytes : List Byte) : Snapshot := State.reset.snapshot (.ofBytes bytes)

/-- A frame of ten bytes: length byte, FCF bytes, dsn 0x01, and the addresses of the running example. -/
def frame10 (length lo hi : Byte) : List Byte :=
  [length, lo, hi, 0x01#8, 0x22#8, 0x00#8, 0x34#8, 0x12#8, 0x78#8, 0x56#8]

/-- The response a step ended with. -/
def answer? (o : Host.Outcome State Fault Refusal) : Option Response :=
  match o with
  | .next t => t.responses.getLast?
  | .fault _ => none
  | .refused _ => none

/-- The fields of 0x8861, vector F3. -/
def fields8861 : FrameControlFields := ⟨1#3, 0#1, 0#1, 1#1, 1#1, 0#3, 2#2, 0#2, 2#2⟩

/- ### WellFormed -/

theorem test_wellFormed_refuses_long_ackreq : (Instr.ackreq ⟨256, []⟩).wellFormed = false := by decide
theorem test_wellFormed_refuses_long_addrdec : (Instr.addrdec ⟨256, []⟩).wellFormed = false := by decide
theorem test_wellFormed_refuses_long_hdrx : (Instr.hdrx ⟨256, []⟩).wellFormed = false := by decide
theorem test_wellFormed_refuses_long_lenchk : (Instr.lenchk ⟨256, []⟩).wellFormed = false := by decide
theorem test_wellFormed_takes_longest_hdrx : (Instr.hdrx ⟨255, []⟩).wellFormed = true := by decide

/- ### Decoding: the operation map of 30_encoding.md R80, with the operand ports of R77 -/

theorem test_decode_fcfdec :
    decode ⟨0b000#3, 0#8, [], 0b1000100001100001#16, zeroFields⟩ = .op (.fcfdec 0x8861#16) := by decide
theorem test_decode_fcfenc :
    decode ⟨0b001#3, 0#8, [], 0#16, fields8861⟩ = .op (.fcfenc ⟨1#3, 0#1, 0#1, 1#1, 1#1, 0#3, 2#2, 0#2, 2#2⟩) := by
  decide
theorem test_decode_ackreq : decode ⟨0b010#3, 0b00001100#8, [(0, 0x0B#8)], 0#16, zeroFields⟩ = .op (.ackreq ⟨12, [(0, 0x0B#8)]⟩) := by
  decide
theorem test_decode_addrdec : decode ⟨0b011#3, 0b00001100#8, [], 0#16, zeroFields⟩ = .op (.addrdec ⟨12, []⟩) := by decide
theorem test_decode_hdrx : decode ⟨0b100#3, 0b00001001#8, [], 0#16, zeroFields⟩ = .op (.hdrx ⟨9, []⟩) := by decide
theorem test_decode_lenchk : decode ⟨0b101#3, 0b11111111#8, [], 0#16, zeroFields⟩ = .op (.lenchk ⟨255, []⟩) := by decide
theorem test_decode_reserved_110 :
    decode ⟨0b110#3, 12#8, [], 0x8861#16, fields8861⟩ = .reserved 0b110#3 := by decide
theorem test_decode_reserved_111 : decode ⟨0b111#3, 0#8, [], 0#16, zeroFields⟩ = .reserved 0b111#3 := by decide
theorem test_table_words :
    (List.range 8).map (decodeTableWord 8) =
      [some (.fcfdec 0#16), some (.fcfenc zeroFields), some (.ackreq ⟨0, []⟩), some (.addrdec ⟨0, []⟩), some (.hdrx ⟨0, []⟩),
        some (.lenchk ⟨0, []⟩), none, none] := by decide
theorem test_table_word_of_no_select : decodeTableWord 8 8 = none := by decide
theorem test_fetch_word_runs :
    answer? (step (State.reset.withFetchWord 8 0b010)) = some (.failed .truncatedBuffer) := by decide

/- ### FCFDEC and FCFENC -/

/-- F21: every kind of field, source mode 1. -/
theorem test_fcfdec_F21 :
    answer? (exec (.fcfdec 0x5A5A#16) State.reset) =
      some (.ok (.fldOut ⟨2#3, 1#1, 1#1, 0#1, 1#1, 4#3, 2#2, 1#2, 1#2⟩) 0b10#2) := by decide
/-- F18: reserved bits are delivered. -/
theorem test_fcfdec_F18 :
    answer? (exec (.fcfdec 0xB9E1#16) State.reset) =
      some (.ok (.fldOut ⟨1#3, 0#1, 0#1, 1#1, 1#1, 3#3, 2#2, 3#2, 2#2⟩) 0b00#2) := by decide
/-- E7: reserved members are put back where they were. -/
theorem test_fcfenc_E7 :
    answer? (exec (.fcfenc ⟨1#3, 0#1, 0#1, 1#1, 1#1, 3#3, 2#2, 3#2, 2#2⟩) State.reset) =
      some (.ok (.fcfOut 0xB9E1#16) 0b00#2) := by decide
/-- E5: mode 1 is encoded raw and noted. -/
theorem test_fcfenc_E5 :
    answer? (exec (.fcfenc ⟨1#3, 0#1, 0#1, 1#1, 1#1, 0#3, 1#2, 0#2, 2#2⟩) State.reset) =
      some (.ok (.fcfOut 0x8461#16) 0b01#2) := by decide

/- ### HDRX and LENCHK -/

/-- H1: offsets and byte order. -/
theorem test_hdrx_H1 :
    answer? (exec (.hdrx (.ofBytes frameA)) State.reset) =
      some (.ok (.hdrOut ⟨0x0B#8, 0x8861#16, 0x2A#8, 0x0022#16, 0x1234#16, 0x5678#16⟩) 0b00#2) := by decide
/-- H3: one byte short. -/
theorem test_hdrx_H3 :
    answer? (exec (.hdrx (.ofBytes (frameA.take 9))) State.reset) = some (.failed .truncatedBuffer) := by decide
/-- L1: 127 is accepted. -/
theorem test_lenchk_L1 :
    answer? (exec (.lenchk (.ofBytes (frame10 0x7F#8 0x61#8 0x88#8))) State.reset) = some (.ok .noResult 0b00#2) := by
  decide
/-- L2: 128 is rejected. -/
theorem test_lenchk_L2 :
    answer? (exec (.lenchk (.ofBytes (frame10 0x80#8 0x61#8 0x88#8))) State.reset) = some (.failed .mtuExceeded) := by
  decide

/- ### ACKREQ -/

/-- A15: destination mode Extended is no failure in ACKREQ. -/
theorem test_ackreq_A15 :
    answer? (exec (.ackreq (.ofBytes (frame10 0x0B#8 0x61#8 0x8C#8))) State.reset) = some (.ok (.ackOut 1#1) 0b00#2) := by
  decide
/-- A4: an Ack frame with Ack Request set. -/
theorem test_ackreq_A4 :
    answer? (exec (.ackreq (.ofBytes (frame10 0x09#8 0x62#8 0x88#8))) State.reset) = some (.ok (.ackOut 0#1) 0b00#2) := by
  decide

/- ### ADDRDEC -/

/-- D5: destination mode 1 is carried and noted, destPan with it. -/
theorem test_addrdec_D5 :
    answer? (exec (.addrdec (.ofBytes (frame10 0x0B#8 0x61#8 0x84#8))) State.reset) =
      some (.ok (.addrOut ⟨.rsv1 0x1234#16, .short 0x5678#16, .rsv1 0x0022#16, 1#1⟩) 0b01#2) := by decide
/-- D8: source Extended. -/
theorem test_addrdec_D8 :
    answer? (exec (.addrdec (.ofBytes (frame10 0x0B#8 0x61#8 0xC8#8))) State.reset) =
      some (.failed (.unrepresentableAddressing 0b010#3)) := by decide

/- ### The step, the payload and the text -/

/-- O1 and O4 of section 2.7. -/
theorem test_step_reserved :
    answer? (step { State.reset with inbox := [.request (bareRequest 0b110#3)] }) = some (.failed .illegalOp) := by
  decide
/-- R48 at its two ends and on both sides of them. -/
theorem test_payloadExtent :
    [8#8, 9#8, 127#8, 128#8].map payloadExtent = [none, some (10, 0), some (10, 118), none] := by decide
/-- The request and response lines of 30_encoding.md R84. -/
theorem test_text_addrdec :
    Text.request (.hdrx (.ofBytes (frameA.take 9))) State.reset = "HDRX [0B 61 88 2A 22 00 34 12 78]".toList ∧
    Text.response (.failed (.unrepresentableAddressing 0b011#3)) =
      "UnrepresentableAddressing info=011".toList := by decide

/- ### Witnesses: a state and operands that meet each statement's hypotheses -/

/-- DecodeOfEncodeIsTheOperation, at the port's bound. -/
theorem witness_wellFormed : (Instr.lenchk ⟨255, []⟩).wellFormed = true := by decide
/-- EncodeOfDecodeKeepsTheUsedPorts, a request for each of its clauses. -/
theorem witness_decodes :
    decode ⟨0b000#3, 7#8, [], 0x8861#16, fields8861⟩ = .op (.fcfdec 0x8861#16) ∧
    decode ⟨0b001#3, 7#8, [], 0x8861#16, fields8861⟩ = .op (.fcfenc fields8861) ∧
    decode ⟨0b101#3, 255#8, [], 0x8861#16, fields8861⟩ = .op (.lenchk ⟨255, []⟩) := by decide
/-- StepRunsTheDecodedOperation and EveryRequestGetsExactlyOneResponse. -/
theorem witness_request :
    ∃ s r rest i, State.inbox s = .request r :: rest ∧ decode r = .op i :=
  ⟨State.reset.withFetchWord 8 4, bareRequest 4#3, [], .hdrx ⟨0, []⟩, by decide⟩
/-- ReservedSelectAnswersIllegalOp, both codes. -/
theorem witness_reserved :
    ((State.reset.withFetchWord 8 6).inbox = [.request (bareRequest 0b110#3)]) ∧
    ((State.reset.withFetchWord 8 7).inbox = [.request (bareRequest 0b111#3)]) := by decide
/-- WaitingForARequestChangesNothing. -/
theorem witness_waiting : State.reset.inbox = [] := by decide
/-- The actions of ResetHasNoArchitecturalEffect: reset, a cut transaction with something else after it, and one
presented again. -/
theorem witness_host_actions :
    ∃ a b c : State, a.inbox = .reset :: [] ∧ b.inbox = .requestCutByReset (bareRequest 4#3) :: .reset :: [] ∧
      c.inbox = .requestCutByReset (bareRequest 4#3) :: .request (bareRequest 4#3) :: [] :=
  ⟨⟨[.reset], [], 0⟩, ⟨[.requestCutByReset (bareRequest 4#3), .reset], [], 0⟩,
    ⟨[.requestCutByReset (bareRequest 4#3), .request (bareRequest 4#3)], [], 0⟩, rfl, rfl, rfl⟩
/-- HostStoreIsSeenByTheNextTransaction: changes at the ends of the header and behind it. -/
theorem witness_host_store :
    10 ≤ (Buffer.ofBytes frameA).len ∧ (Buffer.ofBytes frameA).backed ∧
    [0, 9, 10].map (fun off => (seen frameA).byteAt off) = [0x0B#8, 0x56#8, 0xAB#8] := by decide
/-- HostPlacedBufferHoldsItsBytes: lengths stated at the bytes there are, and below. -/
theorem witness_host_place : 12 ≤ frameA.length ∧ 0 ≤ frameA.length := by decide
/-- EveryStepKeepsTheInvariant: a state with a buffer, a response and a request still to answer. -/
theorem witness_invariant :
    ∃ s t : State, s.Inv ∧ s.responses ≠ [] ∧ step s = .next t ∧ t.responses ≠ s.responses := by
  refine ⟨⟨[.request ⟨4#3, 12#8, Memory.ofBytes frameA, 0#16, zeroFields⟩], [.failed .illegalOp], 1⟩, _, ⟨?_, ?_⟩,
    by simp, rfl, by decide⟩
  · intro a ha
    rw [List.mem_singleton.mp ha]
    exact ofBytes_wf frameA
  · intro r hr
    rw [List.mem_singleton.mp hr]
    trivial
/-- The premise of RunAnswersEveryRequestAsIfAlone, on a request of each kind: a whole header, a short one, and codec
and reserved requests that state a length without having the bytes. -/
theorem witness_run :
    ∀ r ∈ [Request.mk 4#3 12#8 (Memory.ofBytes frameA) 0#16 zeroFields,
        ⟨5#3, 9#8, Memory.ofBytes (frameA.take 9), 0#16, zeroFields⟩, ⟨0#3, 12#8, [], 0x8861#16, zeroFields⟩,
        ⟨6#3, 12#8, [], 0#16, zeroFields⟩],
      2 ≤ r.op.toNat → r.op.toNat ≤ 5 → r.buffer.backed := by decide
/-- The premises of TransactionsInEitherOrderAnswerAlike: two buffers, the shorter below ten bytes. -/
theorem witness_backed :
    Instr.hdrx (.ofBytes frameA) ∈ bufferOps (.ofBytes frameA) ∧
    Instr.ackreq (.ofBytes (frameA.take 9)) ∈ bufferOps (.ofBytes (frameA.take 9)) ∧ (Buffer.ofBytes frameA).backed ∧
    (Buffer.ofBytes (frameA.take 9)).backed := by decide
/-- The premises of SameRequestGivesSameResponse: two buffers that differ at and past the stated length. -/
theorem witness_same_request :
    let b : Buffer := ⟨10, Memory.ofBytes frameA⟩
    let b' : Buffer := ⟨10, Memory.ofBytes (frameA.take 10)⟩
    (bufferOps b)[2]? = some (.hdrx b) ∧ (bufferOps b')[2]? = some (.hdrx b') ∧ b.len = b'.len ∧
      (∀ a < b.len, b.bytes.read? a = b'.bytes.read? a) ∧ b.backed ∧ b ≠ b' := by decide
/-- NothingOfATransactionStays: FCFDEC of one word, presented with different unused ports. -/
theorem witness_nothing_stays :
    ∃ (r r' : Request) (t t' : State), r ≠ r' ∧ step { State.reset with inbox := [.request r] } = .next t ∧
      step { State.reset with inbox := [.request r'] } = .next t' ∧ t.responses = t'.responses :=
  ⟨⟨0#3, 0#8, [], 5#16, zeroFields⟩, ⟨0#3, 12#8, Memory.ofBytes frameA, 5#16, fields8861⟩, _, _, by decide, rfl, rfl, rfl⟩
/-- UnusedPortsAreIgnored: one request of each format, presented with other unused ports. -/
theorem witness_unused_ports :
    ∃ r r' : Request, r.op = 4#3 ∧ r.op = r'.op ∧ r ≠ r' ∧ r.buf_len = r'.buf_len ∧
      (∀ a < r.buf_len.toNat, r.buf.read? a = r'.buf.read? a) ∧ r.buffer.backed :=
  ⟨⟨4#3, 10#8, Memory.ofBytes frameA, 1#16, fields8861⟩,
    ⟨4#3, 10#8, Memory.ofBytes (frameA.take 10), 2#16, zeroFields⟩, by decide⟩
theorem witness_unused_ports_codec :
    ∃ r r' q q' : Request, r.op = 0b000#3 ∧ r'.op = r.op ∧ r.fcf_in = r'.fcf_in ∧ r ≠ r' ∧
      q.op = 0b001#3 ∧ q'.op = q.op ∧ q.fld_in = q'.fld_in ∧ q ≠ q' :=
  ⟨⟨0#3, 0#8, [], 5#16, zeroFields⟩, ⟨0#3, 9#8, [], 5#16, fields8861⟩, ⟨1#3, 0#8, [], 5#16, fields8861⟩,
    ⟨1#3, 9#8, [], 6#16, fields8861⟩, by decide⟩
/-- NoOperationWritesTheBuffer: an operation of each family that completes. -/
theorem witness_completes :
    ∀ i ∈ Instr.fcfdec 0x8861#16 :: .fcfenc fields8861 :: bufferOps (.ofBytes frameA),
      (answer? (exec i State.reset)).isSome := by decide
/-- OperationsEndOnlyInTheirKinds: an operation that answers. -/
theorem witness_answers : Answers (.fcfdec 0xFFFF#16) State.reset (.ok (.fldOut (extractFields 0xFFFF#16)) 0b00#2) :=
  ⟨_, rfl, delivered_deliver _ _⟩
/-- The bounds of the size check, and the bits and lengths where the clauses of the other statements meet:
InvertingOneBitChangesOneMember at bits 0 and 15, SizeCheckComesFirstInEveryBufferOperation,
TruncatedBufferExactlyBelowTen and HdrxDeliversTheRawHeader at 9 and 10. -/
theorem witness_bounds : 0 < 16 ∧ 15 < 16 ∧ Instr.hdrx ⟨9, []⟩ ∈ bufferOps ⟨9, []⟩ ∧ 9 < 10 ∧
    Instr.lenchk ⟨10, []⟩ ∈ bufferOps ⟨10, []⟩ := by
  decide
/-- ReservedFcfBitsAreCarried, last clause: buffers that differ in the reserved bits only. -/
theorem witness_reserved_bits :
    let b := seen (frame10 0x0B#8 0x61#8 0x88#8)
    let b' := seen (frame10 0x0B#8 0xE1#8 0xBB#8)
    (b.len < 10 ↔ b'.len < 10) ∧ b.byteAt 1 &&& 0x7F#8 = b'.byteAt 1 &&& 0x7F#8 ∧
      b.byteAt 2 &&& 0xCC#8 = b'.byteAt 2 &&& 0xCC#8 ∧ b.byteAt 1 ≠ b'.byteAt 1 ∧ b.byteAt 2 ≠ b'.byteAt 2 ∧
      ∀ off < 10, off ≠ 1 → off ≠ 2 → b.byteAt off = b'.byteAt off := by decide
/-- UnrepresentableAddressingByAddrdecOnly and the failing clause of AddrdecClassifiesOrReportsEveryCause: each cause
alone, and none. -/
theorem witness_causes :
    [(0x61#8, 0x8C#8), (0x61#8, 0xC8#8), (0x21#8, 0x88#8), (0x61#8, 0x88#8)].map
      (fun p =>
        let b := seen (frame10 0x0B#8 p.1 p.2)
        ((b.byteAt 1).getLsbD 6, (b.byteAt 2).extractLsb' 2 2, (b.byteAt 2).extractLsb' 6 2)) =
      [(true, 3#2, 2#2), (true, 2#2, 3#2), (false, 2#2, 2#2), (true, 2#2, 2#2)] := by decide
/-- AddrdecClassifiesOrReportsEveryCause: the fields its equations name. -/
theorem witness_address_fields :
    let b := seen (frame10 0x0B#8 0x61#8 0x88#8)
    (0x0022#16).toNat = (b.byteAt 4).toNat + 256 * (b.byteAt 5).toNat ∧
    (0x1234#16).toNat = (b.byteAt 6).toNat + 256 * (b.byteAt 7).toNat ∧
    (0x5678#16).toNat = (b.byteAt 8).toNat + 256 * (b.byteAt 9).toNat := by decide
/-- LenchkEnforcesTheMtuInvariant, MtuExceededByLenchkOnly: 127 and 128, 0 and 255. -/
theorem witness_lengths :
    [0x00#8, 0x7F#8, 0x80#8, 0xFF#8].map
      (fun l => ((seen (frame10 l 0x61#8 0x88#8)).byteAt 0).toNat) = [0, 127, 128, 255] := by decide
/-- MtuExceededByLenchkOnly and UnrepresentableAddressingByAddrdecOnly: the failures happen. -/
theorem witness_failures :
    Answers (.lenchk (.ofBytes (frame10 0x80#8 0x61#8 0x88#8))) State.reset (.failed .mtuExceeded) ∧
    Answers (.addrdec (.ofBytes (frame10 0x0B#8 0x21#8 0x88#8))) State.reset (.failed (.unrepresentableAddressing 0b100#3)) :=
  ⟨⟨_, rfl, delivered_deliver _ _⟩, ⟨_, rfl, delivered_deliver _ _⟩⟩
/-- PayloadExtentOnlyForLegalLengths: each side of both bounds. -/
theorem witness_payload_lengths :
    (8#8).toNat < 9 ∧ 9 ≤ (9#8).toNat ∧ (127#8).toNat ≤ 127 ∧ 127 < (128#8).toNat := by decide
/-- ResponseDependsOnTheListedOffsetsOnly: two buffers of different sizes that agree at ACKREQ's offsets. -/
theorem witness_offsets :
    let b := Buffer.ofBytes (frame10 0x7F#8 0x61#8 0x00#8)
    let b' := Buffer.ofBytes frameA
    (bufferOps b)[0]? = some (.ackreq b) ∧ (bufferOps b')[0]? = some (.ackreq b') ∧
    ∀ off ∈ resultOffsets (.ackreq b),
      (seen (frame10 0x7F#8 0x61#8 0x00#8)).byteAt off = (seen frameA).byteAt off := by
  decide
/-- HdrxInvertsTheLayout: a buffer of ten bytes and one longer. -/
theorem witness_layout : 10 ≤ (frame10 0#8 0#8 0#8).length ∧ 10 ≤ frameA.length := by decide
/-- AckSuppressionAndConcreteCases, its four clauses. -/
theorem witness_ack_clauses :
    (let b := seen [0x0B#8, 0x61#8, 0x88#8, 0x2B#8, 0x22#8, 0x00#8, 0xFF#8, 0xFF#8, 0x78#8, 0x56#8]
     (b.byteAt 1).getLsbD 5 = true ∧ b.byteAt 6 = 0xFF#8 ∧ b.byteAt 7 = 0xFF#8) ∧
    ((seen (frame10 0x09#8 0x62#8 0x88#8)).byteAt 1).extractLsb' 0 3 = 2#3 ∧
    (let b := seen frameA
     (b.byteAt 1).extractLsb' 0 3 = 1#3 ∧ (b.byteAt 1).getLsbD 5 = true ∧ b.byteAt 6 = 0x34#8 ∧ b.byteAt 7 = 0x12#8) ∧
    (let b := seen (frame10 0x0B#8 0x41#8 0x88#8)
     (b.byteAt 1).extractLsb' 0 3 = 1#3 ∧ (b.byteAt 1).getLsbD 5 = false ∧ b.byteAt 6 = 0x34#8 ∧
       b.byteAt 7 = 0x12#8) := by decide
/-- AckreqHasNoHiddenCondition and AddrdecIgnoresEverythingElse: two buffers of at least ten bytes that differ in
everything else. -/
theorem witness_hidden :
    let b := seen [0x0B#8, 0x61#8, 0x88#8, 0x2A#8, 0x22#8, 0x00#8, 0x34#8, 0x12#8, 0x78#8, 0x56#8]
    let a := seen [0xFF#8, 0x39#8, 0x77#8, 0xD5#8, 0xDD#8, 0xFF#8, 0x34#8, 0x12#8, 0x87#8, 0xA9#8]
    let d := seen [0xFF#8, 0xDE#8, 0xBB#8, 0xD5#8, 0x22#8, 0x00#8, 0x34#8, 0x12#8, 0x78#8, 0x56#8]
    (b.len < 10 ↔ a.len < 10) ∧ (b.len < 10 ↔ d.len < 10) ∧
    (b.byteAt 1 &&& 0x27#8 = a.byteAt 1 &&& 0x27#8 ∧ b.byteAt 6 = a.byteAt 6 ∧ b.byteAt 7 = a.byteAt 7) ∧
    ((b.byteAt 1).getLsbD 6 = (d.byteAt 1).getLsbD 6 ∧ b.byteAt 2 &&& 0xCC#8 = d.byteAt 2 &&& 0xCC#8 ∧
      ∀ off < 10, 4 ≤ off → b.byteAt off = d.byteAt off) := by decide
/-- AddrdecCarriesModeOneThrough (its failing clause with Intra-PAN clear is witness_mode_one_clear) and
AddrdecIgnoresTheBytesOfModeNone: the modes of each clause, Intra-PAN set. -/
theorem witness_modes :
    [0x84#8, 0x48#8, 0xC4#8, 0x4C#8, 0x80#8, 0x08#8, 0x00#8].map
      (fun hi =>
        let b := seen (frame10 0x0B#8 0x61#8 hi)
        ((b.byteAt 1).getLsbD 6, (b.byteAt 2).extractLsb' 2 2, (b.byteAt 2).extractLsb' 6 2)) =
      [(true, 1#2, 2#2), (true, 2#2, 1#2), (true, 1#2, 3#2), (true, 3#2, 1#2), (true, 0#2, 2#2), (true, 2#2, 0#2),
        (true, 0#2, 0#2)] := by decide
/-- AddrdecCarriesModeOneThrough, its failing clause: a mode of 1 with Intra-PAN clear. -/
theorem witness_mode_one_clear :
    let b := seen (frame10 0x0B#8 0x21#8 0x84#8)
    (b.byteAt 1).getLsbD 6 = false ∧ (b.byteAt 2).extractLsb' 2 2 = 1#2 ∧ (b.byteAt 2).extractLsb' 6 2 = 2#2 ∧
      answer? (exec (.addrdec (.ofBytes (frame10 0x0B#8 0x21#8 0x84#8))) State.reset) =
        some (.failed (.unrepresentableAddressing 0b100#3)) := by decide

end Sys2Proof.Tests
end

/-! The four buffer operations on either side of the size check (20_memory.md R53): one equation of `exec` per operation
and side, and what follows for all six operations. -/

namespace Sys2Proof.Machine

/-- What delivers a response answers with it. -/
theorem answers_of_exec {i : Instr} {s : State} {r : Response} (h : exec i s = .next (s.deliver r)) : Answers i s r :=
  ⟨_, h, delivered_deliver s r⟩

/-- The members of `bufferOps`, in the form a case split takes. -/
theorem mem_bufferOps {b : Buffer} {i : Instr} :
    i ∈ bufferOps b ↔ i = .ackreq b ∨ i = .addrdec b ∨ i = .hdrx b ∨ i = .lenchk b := by
  simp [bufferOps]

/-- What begins with the size check is, below 10, its failure, whatever would follow. -/
theorem checkHeader_bind_of_lt {α : Type} {b : Snapshot} (h : b.len < 10) (k : Unit → Except Stop α) :
    (checkHeader b >>= k) = .error (.raise .truncatedBuffer) := by
  rw [checkHeader_of_lt h]; rfl

/-- Below 10 each buffer operation raises TruncatedBuffer. -/
theorem exec_of_mem_bufferOps_of_lt {b : Buffer} {i : Instr} (s : State) (hi : i ∈ bufferOps b) (h : b.len < 10) :
    exec i s = .next (s.deliver (.failed .truncatedBuffer)) := by
  have h' : (s.snapshot b).len < 10 := h
  obtain rfl | rfl | rfl | rfl := mem_bufferOps.mp hi <;>
    exact congrArg (finish s) (checkHeader_bind_of_lt h' _)

/-- ACKREQ from 10 bytes on. -/
theorem exec_ackreq_of_le {b : Buffer} (s : State) (h : 10 ≤ b.len) :
    exec (.ackreq b) s = .next (s.deliver (.ok (.ackOut (requiresAck
      (extractFields (le16 ((s.snapshot b).byteAt 1) ((s.snapshot b).byteAt 2))).frame_type
      (extractFields (le16 ((s.snapshot b).byteAt 1) ((s.snapshot b).byteAt 2))).ack_req
      (le16 ((s.snapshot b).byteAt 6) ((s.snapshot b).byteAt 7)))) 0b00#2)) := by
  have h' : 10 ≤ (s.snapshot b).len := h
  simp only [exec, execAckreq, ackreqOf, checkHeader_of_le h',
    readLE16_of_lt (show 1 + 1 < (s.snapshot b).len by omega),
    readLE16_of_lt (show 6 + 1 < (s.snapshot b).len by omega)]
  rfl

/-- ADDRDEC from 10 bytes on is the decode of the four 16-bit fields. -/
theorem exec_addrdec_of_le {b : Buffer} (s : State) (h : 10 ≤ b.len) :
    exec (.addrdec b) s = finish s (decodeAddressing
      (extractFields (le16 ((s.snapshot b).byteAt 1) ((s.snapshot b).byteAt 2)))
      (le16 ((s.snapshot b).byteAt 4) ((s.snapshot b).byteAt 5))
      (le16 ((s.snapshot b).byteAt 6) ((s.snapshot b).byteAt 7))
      (le16 ((s.snapshot b).byteAt 8) ((s.snapshot b).byteAt 9))) := by
  have h' : 10 ≤ (s.snapshot b).len := h
  simp only [exec, execAddrdec, addrdecOf, checkHeader_of_le h',
    readLE16_of_lt (show 1 + 1 < (s.snapshot b).len by omega),
    readLE16_of_lt (show 4 + 1 < (s.snapshot b).len by omega),
    readLE16_of_lt (show 6 + 1 < (s.snapshot b).len by omega),
    readLE16_of_lt (show 8 + 1 < (s.snapshot b).len by omega)]
  rfl

/-- HDRX from 10 bytes on. -/
theorem exec_hdrx_of_le {b : Buffer} (s : State) (h : 10 ≤ b.len) :
    exec (.hdrx b) s = .next (s.deliver (.ok (.hdrOut
      { length := (s.snapshot b).byteAt 0
        fcf := le16 ((s.snapshot b).byteAt 1) ((s.snapshot b).byteAt 2)
        dsn := (s.snapshot b).byteAt 3
        destpan := le16 ((s.snapshot b).byteAt 4) ((s.snapshot b).byteAt 5)
        dest := le16 ((s.snapshot b).byteAt 6) ((s.snapshot b).byteAt 7)
        src := le16 ((s.snapshot b).byteAt 8) ((s.snapshot b).byteAt 9) }) 0b00#2)) := by
  have h' : 10 ≤ (s.snapshot b).len := h
  simp only [exec, execHdrx, hdrxOf, checkHeader_of_le h', readHeader_of_le h']
  rfl

/-- LENCHK from 10 bytes on. -/
theorem exec_lenchk_of_le {b : Buffer} (s : State) (h : 10 ≤ b.len) :
    exec (.lenchk b) s = .next (s.deliver
      (if 127 < ((s.snapshot b).byteAt 0).toNat then .failed .mtuExceeded else .ok .noResult 0b00#2)) := by
  have h' : 10 ≤ (s.snapshot b).len := h
  simp only [exec, execLenchk, lenchkOf, checkHeader_of_le h',
    bufRead_of_lt (show 0 < (s.snapshot b).len by omega)]
  change finish s (if 127 < ((s.snapshot b).byteAt 0).toNat then _ else _) = _
  split
  · rfl
  · rfl

/-- The addressing decode ends in a response, and never in TruncatedBuffer. -/
theorem finish_decodeAddressing_ne_truncatedBuffer (s : State) (f : FrameControlFields) (destpan dest src : Half) :
    ∃ r, finish s (decodeAddressing f destpan dest src) = .next (s.deliver r) ∧ r ≠ .failed .truncatedBuffer := by
  obtain ⟨-, -, -, da, sa, dp, -, -, -, hok⟩ | ⟨-, hraise⟩ := decodeAddressing_cases f destpan dest src
  · exact ⟨_, congrArg (finish s) hok, by simp⟩
  · exact ⟨_, congrArg (finish s) hraise, by simp⟩

/-- From 10 bytes on each buffer operation delivers a response other than TruncatedBuffer. -/
theorem exec_of_mem_bufferOps_of_le {b : Buffer} {i : Instr} (s : State) (hi : i ∈ bufferOps b) (h : 10 ≤ b.len) :
    ∃ r, exec i s = .next (s.deliver r) ∧ r ≠ .failed .truncatedBuffer := by
  obtain rfl | rfl | rfl | rfl := mem_bufferOps.mp hi
  · exact ⟨_, exec_ackreq_of_le s h, by simp⟩
  · rw [exec_addrdec_of_le s h]
    exact finish_decodeAddressing_ne_truncatedBuffer ..
  · exact ⟨_, exec_hdrx_of_le s h, by simp⟩
  · exact ⟨_, exec_lenchk_of_le s h, by split <;> simp⟩

/-- Each buffer operation delivers a response, on either side of the size check. -/
theorem exec_of_mem_bufferOps {b : Buffer} {i : Instr} (s : State) (hi : i ∈ bufferOps b) :
    ∃ r, exec i s = .next (s.deliver r) := by
  obtain h | h := Nat.lt_or_ge b.len 10
  · exact ⟨_, exec_of_mem_bufferOps_of_lt s hi h⟩
  · obtain ⟨r, hr, -⟩ := exec_of_mem_bufferOps_of_le s hi h
    exact ⟨r, hr⟩

/-- Every operation delivers exactly one response, in every state. -/
theorem exec_eq_deliver (i : Instr) (s : State) : ∃ r, exec i s = .next (s.deliver r) := by
  cases i with
  | fcfdec raw => exact ⟨_, rfl⟩
  | fcfenc f => exact ⟨_, rfl⟩
  | ackreq b | addrdec b | hdrx b | lenchk b => exact exec_of_mem_bufferOps (b := b) s (by simp [mem_bufferOps])

/-- No operation stops the machine with a fault (20_memory.md R53). -/
theorem exec_ne_fault (i : Instr) (s : State) (f : Fault) : exec i s ≠ .fault f := by
  obtain ⟨r, hr⟩ := exec_eq_deliver i s
  simp [hr]

/-- Settles O26, from the equations of the buffer operations on either side of the size check. -/
theorem sizeCheckComesFirstInEveryBufferOperation : Obligations.SizeCheckComesFirstInEveryBufferOperation := by
  refine ⟨fun b i s hi h => ?below, fun b i s hi h => ?fromTen, fun i s off => ?inRange⟩
  case below => exact answers_of_exec (exec_of_mem_bufferOps_of_lt s hi h)
  case fromTen =>
    obtain ⟨r, hr, hne⟩ := exec_of_mem_bufferOps_of_le s hi h
    exact ⟨r, answers_of_exec hr, hne⟩
  case inRange => exact exec_ne_fault i s (.readPastBuffer off)

end Sys2Proof.Machine

/-! The reserved FCF bits (30_encoding.md R75): the codec carries them, and masking them in a word clears the reserved
members of its fields and no other, so that an operation blind to those members answers alike with and without them. -/

namespace Sys2Proof.Machine

/-- FCFDEC delivers the fields of its word. -/
theorem exec_fcfdec (raw : Half) (s : State) :
    exec (.fcfdec raw) s = .next (s.deliver (.ok (.fldOut (extractFields raw))
      (noteOf (extractFields raw).dest_mode (extractFields raw).src_mode))) := rfl

/-- FCFENC delivers the word of its fields. -/
theorem exec_fcfenc (f : FrameControlFields) (s : State) :
    exec (.fcfenc f) s = .next (s.deliver (.ok (.fcfOut (insertFields f)) (noteOf f.dest_mode f.src_mode))) := rfl

/-- The first reserved member of a word is its bits 9:7. -/
theorem extractFields_rsv7_9 (x : Half) : (extractFields x).rsv7_9 = x.extractLsb' 7 3 := by
  rw [extractFields_eq]

/-- The second reserved member of a word is its bits 13:12. -/
theorem extractFields_rsv12_13 (x : Half) : (extractFields x).rsv12_13 = x.extractLsb' 12 2 := by
  rw [extractFields_eq]

/-- The fields of an assembled word are those it was assembled from. -/
theorem extractFields_insertFields (f : FrameControlFields) : extractFields (insertFields f) = f := by
  rw [extractFields_eq]
  refine (FrameControlFields.mk.injEq ..).mpr ⟨?_, ?_, ?_, ?_, ?_, ?_, ?_, ?_, ?_⟩ <;>
    (ext i hi
     rw [BitVec.getElem_extractLsb', insertFields_getLsbD, ← BitVec.getLsbD_eq_getElem]
     interval_cases i <;> rfl)

/-- The fields with both reserved members zero. -/
def clearReserved (f : FrameControlFields) : FrameControlFields := { f with rsv7_9 := 0#3, rsv12_13 := 0#2 }

@[simp] theorem clearReserved_frame_type (f : FrameControlFields) : (clearReserved f).frame_type = f.frame_type := rfl
@[simp] theorem clearReserved_ack_req (f : FrameControlFields) : (clearReserved f).ack_req = f.ack_req := rfl

/-- The addressing decode does not look at the reserved members. -/
@[simp] theorem decodeAddressing_clearReserved (f : FrameControlFields) (destpan dest src : Half) :
    decodeAddressing (clearReserved f) destpan dest src = decodeAddressing f destpan dest src := rfl

/-- Masking the reserved bits of a word clears its reserved members and no other. -/
theorem extractFields_and_mask (x : Half) : extractFields (x &&& 0xCC7F#16) = clearReserved (extractFields x) := by
  simp only [extractFields, clearReserved, FrameControlFields.mk.injEq]
  refine ⟨?_, ?_, ?_, ?_, ?_, ?_, ?_, ?_, ?_⟩ <;> (ext i hi; interval_cases i <;> simp)

/-- Little-endian assembly goes bit by bit. -/
theorem le16_and (lo hi m n : Byte) : le16 (lo &&& m) (hi &&& n) = le16 lo hi &&& le16 m n := by
  ext k hk
  simp only [← BitVec.getLsbD_eq_getElem, BitVec.getLsbD_and, le16_getLsbD]
  split
  · rfl
  · rfl

/-- Two FCF byte pairs that agree outside the reserved bits have the same fields, the reserved members aside. -/
theorem clearReserved_extractFields_congr {lo hi lo' hi' : Byte} (hlo : lo &&& 0x7F#8 = lo' &&& 0x7F#8)
    (hhi : hi &&& 0xCC#8 = hi' &&& 0xCC#8) :
    clearReserved (extractFields (le16 lo hi)) = clearReserved (extractFields (le16 lo' hi')) := by
  have hmask : le16 0x7F#8 0xCC#8 = 0xCC7F#16 := by decide
  rw [← extractFields_and_mask, ← extractFields_and_mask, ← hmask, ← le16_and, ← le16_and, hlo, hhi]

/-- Transactions that deliver one response answer alike. -/
theorem answerAlike_of_exec {i i' : Instr} {s s' : State} {r : Response} (h : exec i s = .next (s.deliver r))
    (h' : exec i' s' = .next (s'.deliver r)) : AnswerAlike i s i' s' :=
  ⟨r, answers_of_exec h, answers_of_exec h'⟩

/-- Operations that end in one way answer alike, since none ends in a fault. -/
theorem answerAlike_of_exec_finish {i i' : Instr} {s s' : State} {e : Except Stop (Result × BitVec 2)}
    (h : exec i s = finish s e) (h' : exec i' s' = finish s' e) : AnswerAlike i s i' s' :=
  match e with
  | .ok (_, _) => answerAlike_of_exec h h'
  | .error (.raise _) => answerAlike_of_exec h h'
  | .error (.fault f) => absurd h (exec_ne_fault i s f)

/-- Below 10 all buffer operations answer alike. -/
theorem answerAlike_of_mem_bufferOps_of_lt {b b' : Buffer} {i i' : Instr} (s s' : State) (hi : i ∈ bufferOps b)
    (hi' : i' ∈ bufferOps b') (h : b.len < 10) (h' : b'.len < 10) : AnswerAlike i s i' s' :=
  answerAlike_of_exec (exec_of_mem_bufferOps_of_lt s hi h) (exec_of_mem_bufferOps_of_lt s' hi' h')

/-- ACKREQ, ADDRDEC and LENCHK do not see the reserved FCF bits. -/
theorem answerAlike_of_agree_outside_reserved {b b' : Buffer} {s s' : State} (hlen : b.len < 10 ↔ b'.len < 10)
    (hlo : (s.snapshot b).byteAt 1 &&& 0x7F#8 = (s'.snapshot b').byteAt 1 &&& 0x7F#8)
    (hhi : (s.snapshot b).byteAt 2 &&& 0xCC#8 = (s'.snapshot b').byteAt 2 &&& 0xCC#8)
    (hsame : ∀ off < 10, off ≠ 1 → off ≠ 2 → SameByte (s.snapshot b) (s'.snapshot b') off) :
    AnswerAlike (.ackreq b) s (.ackreq b') s' ∧ AnswerAlike (.addrdec b) s (.addrdec b') s' ∧
      AnswerAlike (.lenchk b) s (.lenchk b') s' := by
  have hfields := clearReserved_extractFields_congr hlo hhi
  obtain h | h := Nat.lt_or_ge b.len 10
  · have h' : b'.len < 10 := hlen.mp h
    refine ⟨?_, ?_, ?_⟩ <;>
      exact answerAlike_of_mem_bufferOps_of_lt s s' (by simp [mem_bufferOps]) (by simp [mem_bufferOps]) h h'
  · have h' : 10 ≤ b'.len := by omega
    have same (off : Nat) (hoff : off < 10) (h1 : off ≠ 1) (h2 : off ≠ 2) :
        (s'.snapshot b').byteAt off = (s.snapshot b).byteAt off := (hsame off hoff h1 h2).symm
    refine ⟨?ackreq, ?addrdec, ?lenchk⟩
    case ackreq =>
      refine answerAlike_of_exec (exec_ackreq_of_le s h) ?_
      rw [exec_ackreq_of_le s' h', ← clearReserved_frame_type, ← clearReserved_ack_req, ← hfields]
      simp [same]
    case addrdec =>
      refine answerAlike_of_exec_finish (exec_addrdec_of_le s h) ?_
      rw [exec_addrdec_of_le s' h', ← decodeAddressing_clearReserved, ← hfields]
      simp [same]
    case lenchk =>
      refine answerAlike_of_exec (exec_lenchk_of_le s h) ?_
      rw [exec_lenchk_of_le s' h', same 0 (by omega) (by omega) (by omega)]

/-- Settles O25: the codec and HDRX by the bits they deliver, the other operations because clearing the reserved bits
changes none of their answers. -/
theorem reservedFcfBitsAreCarried : Obligations.ReservedFcfBitsAreCarried := by
  refine ⟨fun x s => ?fcfdec, fun f s => ?fcfenc, fun b s h => ?hdrx, fun b b' s s' hlen hlo hhi hsame => ?ignored⟩
  case fcfdec => exact ⟨_, _, answers_of_exec (exec_fcfdec x s), extractFields_rsv7_9 x, extractFields_rsv12_13 x⟩
  case fcfenc =>
    have hf := extractFields_insertFields f
    refine ⟨_, _, answers_of_exec (exec_fcfenc f s), ?_, ?_⟩
    · rw [← extractFields_rsv7_9, hf]
    · rw [← extractFields_rsv12_13, hf]
  case hdrx =>
    exact ⟨_, answers_of_exec (exec_hdrx_of_le s h), le16_getLsbD _ _ 7, le16_getLsbD _ _ 8, le16_getLsbD _ _ 9,
      le16_getLsbD _ _ 12, le16_getLsbD _ _ 13⟩
  case ignored => exact answerAlike_of_agree_outside_reserved hlen hlo hhi hsame

end Sys2Proof.Machine

/-! The codec's round-trip law (40_fcf_codec.md R104). -/

namespace Sys2Proof.Machine

/-- FCFDEC of an assembled word delivers the record it was assembled from, with the note of its modes. -/
theorem exec_fcfdec_insertFields (f : FrameControlFields) (s : State) :
    exec (.fcfdec (insertFields f)) s = .next (s.deliver (.ok (.fldOut f) (noteOf f.dest_mode f.src_mode))) := by
  rw [exec_fcfdec, extractFields_insertFields]

/-- Settles O21: extraction inverts assembly, and each note is that of the record's modes. -/
theorem fcfdecOfFcfencIsTheRecord : Obligations.FcfdecOfFcfencIsTheRecord := by
  intro f s
  refine ⟨_, insertFields f, noteOf f.dest_mode f.src_mode, exec_fcfenc f s, delivered_deliver s _, fun s' => ?_⟩
  exact answers_of_exec (exec_fcfdec_insertFields f s')

end Sys2Proof.Machine

/-! ACKREQ in terms of the buffer's bytes, and the truth table of its predicate (42_requires_ack.md R146). -/

namespace Sys2Proof.Machine

/-- The frame type lies in the lower byte of the frame control field. -/
theorem extractFields_le16_frame_type (lo hi : Byte) :
    (extractFields (le16 lo hi)).frame_type = lo.extractLsb' 0 3 := by
  rw [extractFields_eq]
  ext k hk
  have hk8 : k < 8 := by omega
  simp [le16_getLsbD, hk8]

/-- Ack Request is bit 5 of the lower byte of the frame control field. -/
theorem extractFields_le16_ack_req (lo hi : Byte) :
    (extractFields (le16 lo hi)).ack_req = BitVec.ofBool (lo.getLsbD 5) := by
  rw [extractFields_eq]
  ext k hk
  obtain rfl : k = 0 := by omega
  rw [BitVec.getElem_extractLsb', le16_getLsbD]
  simp

/-- From 10 bytes on ACKREQ answers with the predicate of the frame type, Ack Request and dest in the buffer's bytes. -/
theorem answers_ackreq_of_le {b : Buffer} {s : State} {v : BitVec 1} (h : 10 ≤ b.len)
    (hv : requiresAck (((s.snapshot b).byteAt 1).extractLsb' 0 3) (BitVec.ofBool (((s.snapshot b).byteAt 1).getLsbD 5))
      (le16 ((s.snapshot b).byteAt 6) ((s.snapshot b).byteAt 7)) = v) :
    Answers (.ackreq b) s (.ok (.ackOut v) 0b00#2) := by
  have hexec := exec_ackreq_of_le s h
  rw [extractFields_le16_frame_type, extractFields_le16_ack_req, hv] at hexec
  exact answers_of_exec hexec

/-- An Ack frame never demands an acknowledgement. -/
theorem requiresAck_ftAck (ack_req : BitVec 1) (dest : Half) : requiresAck Config.ftAck ack_req dest = 0#1 := by
  simp [requiresAck]

/-- A frame without Ack Request demands none. -/
theorem requiresAck_not_requested (frame_type : BitVec 3) (dest : Half) : requiresAck frame_type 0#1 dest = 0#1 := by
  simp [requiresAck]

/-- A broadcast demands none. -/
theorem requiresAck_broadcastAddr (frame_type : BitVec 3) (ack_req : BitVec 1) :
    requiresAck frame_type ack_req Config.broadcastAddr = 0#1 := by
  simp [requiresAck]

/-- Every other frame demands one. -/
theorem requiresAck_requested {frame_type : BitVec 3} {dest : Half} (htype : frame_type ≠ Config.ftAck)
    (hdest : dest ≠ Config.broadcastAddr) : requiresAck frame_type 1#1 dest = 1#1 := by
  simp [requiresAck, bne_iff_ne.mpr htype, bne_iff_ne.mpr hdest]

/-- Settles O40: each of the four properties is one row of the predicate's truth table. -/
theorem ackSuppressionAndConcreteCases : Obligations.AckSuppressionAndConcreteCases := by
  intro b s h
  refine ⟨fun _ h6 h7 => ⟨0b00#2, answers_ackreq_of_le h ?broadcast⟩,
    fun htype => ⟨0b00#2, answers_ackreq_of_le h ?ackFrame⟩,
    fun htype hack h6 h7 => ⟨0b00#2, answers_ackreq_of_le h ?requested⟩,
    fun _ hack _ _ => ⟨0b00#2, answers_ackreq_of_le h ?notRequested⟩⟩
  case broadcast =>
    have hdest : le16 0xFF#8 0xFF#8 = Config.broadcastAddr := by decide
    rw [h6, h7, hdest]
    exact requiresAck_broadcastAddr ..
  case ackFrame =>
    rw [htype]
    exact requiresAck_ftAck ..
  case requested =>
    rw [htype, hack, h6, h7]
    exact requiresAck_requested (by decide) (by decide)
  case notRequested =>
    rw [hack]
    exact requiresAck_not_requested ..

end Sys2Proof.Machine

/-! ADDRDEC in terms of the buffer's bytes (43_addressing.md R161): its answer on either side of the causes of failure,
what a delivered FrameAddress says, and which bytes the answer depends on. -/

namespace Sys2Proof.Machine

/-- Intra-PAN in the buffer's bytes (43_addressing.md R161). -/
def Snapshot.intraPan (b : Snapshot) : Bool := (b.byteAt 1).getLsbD 6
/-- The destination mode in the buffer's bytes (43_addressing.md R161). -/
def Snapshot.destMode (b : Snapshot) : BitVec 2 := (b.byteAt 2).extractLsb' 2 2
/-- The source mode in the buffer's bytes (43_addressing.md R161). -/
def Snapshot.srcMode (b : Snapshot) : BitVec 2 := (b.byteAt 2).extractLsb' 6 2
/-- The little-endian pair of bytes at an offset (20_memory.md R45). -/
def Snapshot.halfAt (b : Snapshot) (off : Nat) : Half := le16 (b.byteAt off) (b.byteAt (off + 1))

/-- The number at an offset. -/
theorem Snapshot.halfAt_toNat (b : Snapshot) (off : Nat) :
    (b.halfAt off).toNat = (b.byteAt off).toNat + 256 * (b.byteAt (off + 1)).toNat := le16_toNat ..

/-- Intra-PAN is bit 6 of the lower byte of the frame control field. -/
theorem extractFields_halfAt_intra_pan (b : Snapshot) :
    (extractFields (b.halfAt 1)).intra_pan = BitVec.ofBool b.intraPan := by
  rw [extractFields_eq]
  ext k hk
  obtain rfl : k = 0 := by omega
  rw [BitVec.getElem_extractLsb', Snapshot.halfAt, le16_getLsbD]
  simp [Snapshot.intraPan]

/-- The destination mode is bits 3:2 of the higher byte of the frame control field. -/
theorem extractFields_halfAt_dest_mode (b : Snapshot) : (extractFields (b.halfAt 1)).dest_mode = b.destMode := by
  rw [extractFields_eq]
  ext k hk
  simp [Snapshot.halfAt, Snapshot.destMode, le16_getLsbD, show ¬ 10 + k < 8 by omega,
    show 10 + k - 8 = 2 + k by omega]

/-- The source mode is bits 7:6 of the higher byte of the frame control field. -/
theorem extractFields_halfAt_src_mode (b : Snapshot) : (extractFields (b.halfAt 1)).src_mode = b.srcMode := by
  rw [extractFields_eq]
  ext k hk
  simp [Snapshot.halfAt, Snapshot.srcMode, le16_getLsbD, show ¬ 14 + k < 8 by omega,
    show 14 + k - 8 = 6 + k by omega]

/-- ADDRDEC from 10 bytes on, with the fields as numbers of the buffer. -/
theorem exec_addrdec_halfAt {b : Buffer} (s : State) (h : 10 ≤ b.len) :
    exec (.addrdec b) s = finish s (decodeAddressing (extractFields ((s.snapshot b).halfAt 1))
      ((s.snapshot b).halfAt 4) ((s.snapshot b).halfAt 6) ((s.snapshot b).halfAt 8)) :=
  exec_addrdec_of_le s h

/-- From 10 bytes on ADDRDEC delivers the three classified members, with Intra-PAN set and neither mode Extended, or
fails with the causes. -/
theorem exec_addrdec_cases {b : Buffer} (s : State) (h : 10 ≤ b.len) :
    ((s.snapshot b).intraPan = true ∧ (s.snapshot b).destMode ≠ 3#2 ∧ (s.snapshot b).srcMode ≠ 3#2 ∧
      ∃ destAddress sourceAddress destPan,
        classify (s.snapshot b).destMode ((s.snapshot b).halfAt 6) = some destAddress ∧
        classify (s.snapshot b).srcMode ((s.snapshot b).halfAt 8) = some sourceAddress ∧
        classify (s.snapshot b).destMode ((s.snapshot b).halfAt 4) = some destPan ∧
        exec (.addrdec b) s = .next (s.deliver (.ok
          (.addrOut { destAddress, sourceAddress, destPan, pan_shared := 1#1 })
          (noteOf (s.snapshot b).destMode (s.snapshot b).srcMode)))) ∨
    (¬ ((s.snapshot b).intraPan = true ∧ (s.snapshot b).destMode ≠ 3#2 ∧ (s.snapshot b).srcMode ≠ 3#2) ∧
      exec (.addrdec b) s = .next (s.deliver (.failed (.unrepresentableAddressing
        (infoOf (BitVec.ofBool (s.snapshot b).intraPan) (s.snapshot b).destMode (s.snapshot b).srcMode))))) := by
  have hbit (i : Bool) : BitVec.ofBool i = 1#1 ↔ i = true := by cases i <;> decide
  have hcases := decodeAddressing_cases (extractFields ((s.snapshot b).halfAt 1))
    ((s.snapshot b).halfAt 4) ((s.snapshot b).halfAt 6) ((s.snapshot b).halfAt 8)
  rw [extractFields_halfAt_intra_pan, extractFields_halfAt_dest_mode, extractFields_halfAt_src_mode, hbit] at hcases
  rw [exec_addrdec_halfAt s h]
  obtain ⟨hi, hd, hs, da, sa, dp, hda, hsa, hdp, hok⟩ | ⟨hcause, hraise⟩ := hcases
  · exact .inl ⟨hi, hd, hs, da, sa, dp, hda, hsa, hdp, congrArg (finish s) hok⟩
  · exact .inr ⟨hcause, congrArg (finish s) hraise⟩

/-- With Intra-PAN clear or a mode Extended ADDRDEC fails with the causes. -/
theorem exec_addrdec_of_cause {b : Buffer} {s : State} (h : 10 ≤ b.len)
    (hcause : (s.snapshot b).intraPan = false ∨ (s.snapshot b).destMode = 3#2 ∨ (s.snapshot b).srcMode = 3#2) :
    exec (.addrdec b) s = .next (s.deliver (.failed (.unrepresentableAddressing
      (infoOf (BitVec.ofBool (s.snapshot b).intraPan) (s.snapshot b).destMode (s.snapshot b).srcMode)))) := by
  obtain ⟨hi, hd, hs, -⟩ | ⟨-, hraise⟩ := exec_addrdec_cases s h
  · simp [hi, hd, hs] at hcause
  · exact hraise

/-- Each bit of info says whether its cause holds. -/
theorem infoOf_says (intra : Bool) (dest_mode src_mode : BitVec 2) :
    ((infoOf (BitVec.ofBool intra) dest_mode src_mode).getLsbD 0 = true ↔ dest_mode = 3#2) ∧
    ((infoOf (BitVec.ofBool intra) dest_mode src_mode).getLsbD 1 = true ↔ src_mode = 3#2) ∧
    ((infoOf (BitVec.ofBool intra) dest_mode src_mode).getLsbD 2 = true ↔ intra = false) := by
  revert intra dest_mode src_mode; decide

/-- Mode None classifies as absent, whatever the field holds. -/
theorem classify_amNone (v : Half) : classify 0#2 v = some .absent := rfl

/-- Mode value 1 carries the field through. -/
theorem classify_amRsv1 (v : Half) : classify 1#2 v = some (.rsv1 v) := rfl

/-- Settles O43: the delivered members are the classifications under mode 1, and the failures are those of the causes. -/
theorem addrdecCarriesModeOneThrough : Obligations.AddrdecCarriesModeOneThrough := by
  intro b s intra dm sm h hintra hdm hsm
  obtain rfl : intra = (s.snapshot b).intraPan := hintra
  obtain rfl : dm = (s.snapshot b).destMode := hdm
  obtain rfl : sm = (s.snapshot b).srcMode := hsm
  obtain ⟨hdestNote, hsrcNote⟩ := noteOf_says (s.snapshot b).destMode (s.snapshot b).srcMode
  refine ⟨fun hd hs hi => ?dest, fun hs hd hi => ?src, fun hd hs hi => ?sourceExtended, fun _ hcause => ?causes⟩
  case dest =>
    obtain ⟨-, -, -, da, sa, dp, hda, -, hdp, hexec⟩ :=
      (exec_addrdec_cases s h).resolve_right fun ⟨hcause, _⟩ => hcause ⟨hi, by simp [hd], hs⟩
    rw [hd, classify_amRsv1, Option.some.injEq] at hda hdp
    exact ⟨_, _, _, _, answers_of_exec hexec, hdestNote.mpr hd, hda.symm, hdp.symm,
      Snapshot.halfAt_toNat .., Snapshot.halfAt_toNat ..⟩
  case src =>
    obtain ⟨-, -, -, da, sa, dp, -, hsa, -, hexec⟩ :=
      (exec_addrdec_cases s h).resolve_right fun ⟨hcause, _⟩ => hcause ⟨hi, hd, by simp [hs]⟩
    rw [hs, classify_amRsv1, Option.some.injEq] at hsa
    exact ⟨_, _, _, answers_of_exec hexec, hsrcNote.mpr hs, hsa.symm, Snapshot.halfAt_toNat ..⟩
  case sourceExtended =>
    have hexec := exec_addrdec_of_cause h (.inr (.inr hs))
    rw [hi, hd, hs] at hexec
    exact answers_of_exec hexec
  case causes => exact ⟨_, answers_of_exec (exec_addrdec_of_cause h hcause), infoOf_says ..⟩

/-- An operation answers with the one response it delivers. -/
theorem Answers.eq_of_exec {i : Instr} {s : State} {r r' : Response} (ha : Answers i s r)
    (h : exec i s = .next (s.deliver r')) : r = r' := by
  obtain ⟨t, ht, hresponses, -⟩ := ha
  obtain rfl : t = s.deliver r' := Host.Outcome.next.inj (ht.symm.trans h)
  simpa using hresponses.symm

/-- A FrameAddress that ADDRDEC delivers consists of the classified fields. -/
theorem classify_of_answers_addrdec {b : Buffer} {s : State} {a : FrameAddress} {note : BitVec 2}
    (ha : Answers (.addrdec b) s (.ok (.addrOut a) note)) :
    classify (s.snapshot b).destMode ((s.snapshot b).halfAt 6) = some a.destAddress ∧
    classify (s.snapshot b).srcMode ((s.snapshot b).halfAt 8) = some a.sourceAddress ∧
    classify (s.snapshot b).destMode ((s.snapshot b).halfAt 4) = some a.destPan := by
  obtain h | h := Nat.lt_or_ge b.len 10
  · cases ha.eq_of_exec (exec_of_mem_bufferOps_of_lt s (by simp [mem_bufferOps]) h)
  · obtain ⟨-, -, -, da, sa, dp, hda, hsa, hdp, hok⟩ | ⟨-, hraise⟩ := exec_addrdec_cases s h
    · cases ha.eq_of_exec hok
      exact ⟨hda, hsa, hdp⟩
    · cases ha.eq_of_exec hraise

/-- The addressing decode depends on Intra-PAN, the modes and the classified members alone. -/
theorem decodeAddressing_congr {f f' : FrameControlFields} {destpan dest src destpan' dest' src' : Half}
    (hi : f.intra_pan = f'.intra_pan) (hd : f.dest_mode = f'.dest_mode) (hs : f.src_mode = f'.src_mode)
    (hdest : classify f'.dest_mode dest = classify f'.dest_mode dest')
    (hsrc : classify f'.src_mode src = classify f'.src_mode src')
    (hpan : classify f'.dest_mode destpan = classify f'.dest_mode destpan') :
    decodeAddressing f destpan dest src = decodeAddressing f' destpan' dest' src' := by
  simp only [decodeAddressing, hi, hd, hs, hdest, hsrc, hpan]

/-- Two buffers that agree in Intra-PAN, the modes and the classified members are answered alike by ADDRDEC. -/
theorem answerAlike_addrdec {b b' : Buffer} {s s' : State} (hlen : b.len < 10 ↔ b'.len < 10)
    (hi : (s.snapshot b).intraPan = (s'.snapshot b').intraPan)
    (hd : (s.snapshot b).destMode = (s'.snapshot b').destMode)
    (hs : (s.snapshot b).srcMode = (s'.snapshot b').srcMode)
    (hdest : classify (s'.snapshot b').destMode ((s.snapshot b).halfAt 6) =
      classify (s'.snapshot b').destMode ((s'.snapshot b').halfAt 6))
    (hsrc : classify (s'.snapshot b').srcMode ((s.snapshot b).halfAt 8) =
      classify (s'.snapshot b').srcMode ((s'.snapshot b').halfAt 8))
    (hpan : classify (s'.snapshot b').destMode ((s.snapshot b).halfAt 4) =
      classify (s'.snapshot b').destMode ((s'.snapshot b').halfAt 4)) :
    AnswerAlike (.addrdec b) s (.addrdec b') s' := by
  obtain h | h := Nat.lt_or_ge b.len 10
  · exact answerAlike_of_mem_bufferOps_of_lt s s' (by simp [mem_bufferOps]) (by simp [mem_bufferOps]) h (hlen.mp h)
  · have h' : 10 ≤ b'.len := by omega
    refine answerAlike_of_exec_finish (exec_addrdec_halfAt s h) ?_
    rw [exec_addrdec_halfAt s' h']
    refine congrArg (finish s') (decodeAddressing_congr ?_ ?_ ?_ ?_ ?_ ?_).symm <;>
      simp only [extractFields_halfAt_intra_pan, extractFields_halfAt_dest_mode, extractFields_halfAt_src_mode,
        hi, hd, hs, hdest, hsrc, hpan]

section Store

variable (s : State) (b : Buffer) {off off' : Nat} (v : Byte)

/-- A store leaves the byte read at every other offset alone. -/
theorem byteAt_store_other (h : off' ≠ off) :
    (s.snapshot (b.store off v)).byteAt off' = (s.snapshot b).byteAt off' := by
  simp [Snapshot.byteAt, read?_write_other _ _ h]

/-- A store outside a pair of bytes leaves the pair alone. -/
theorem halfAt_store_other (h : off' ≠ off) (h' : off' + 1 ≠ off) :
    (s.snapshot (b.store off v)).halfAt off' = (s.snapshot b).halfAt off' := by
  rw [Snapshot.halfAt, byteAt_store_other s b v h, byteAt_store_other s b v h', Snapshot.halfAt]

/-- A store past offset 2 leaves Intra-PAN and both modes alone. -/
theorem modes_store_of_lt (h : 2 < off) :
    (s.snapshot (b.store off v)).intraPan = (s.snapshot b).intraPan ∧
    (s.snapshot (b.store off v)).destMode = (s.snapshot b).destMode ∧
    (s.snapshot (b.store off v)).srcMode = (s.snapshot b).srcMode := by
  have h1 := byteAt_store_other s b v (show 1 ≠ off by omega)
  have h2 := byteAt_store_other s b v (show 2 ≠ off by omega)
  exact ⟨congrArg (·.getLsbD 6) h1, congrArg (·.extractLsb' 2 2) h2, congrArg (·.extractLsb' 6 2) h2⟩

end Store

/-- Settles O44: mode None classifies as absent, whatever the field holds, and ADDRDEC sees an address field through its
classification alone. -/
theorem addrdecIgnoresTheBytesOfModeNone : Obligations.AddrdecIgnoresTheBytesOfModeNone := by
  intro b s
  refine ⟨fun (hd : (s.snapshot b).destMode = 0#2) => ⟨fun a note ha => ?destAbsent, fun lo hi plo phi => ?destIgnored⟩,
    fun (hs : (s.snapshot b).srcMode = 0#2) => ⟨fun a note ha => ?srcAbsent, fun lo hi => ?srcIgnored⟩,
    fun h hi (hd : (s.snapshot b).destMode = 0#2) (hs : (s.snapshot b).srcMode = 0#2) => ?bothNone⟩
  case destAbsent =>
    obtain ⟨hda, -, hdp⟩ := classify_of_answers_addrdec ha
    rw [hd, classify_amNone, Option.some.injEq] at hda hdp
    exact ⟨hda.symm, hdp.symm⟩
  case destIgnored =>
    apply answerAlike_addrdec <;> simp [modes_store_of_lt, halfAt_store_other, hd, classify_amNone]
  case srcAbsent =>
    obtain ⟨-, hsa, -⟩ := classify_of_answers_addrdec ha
    rw [hs, classify_amNone, Option.some.injEq] at hsa
    exact hsa.symm
  case srcIgnored =>
    apply answerAlike_addrdec <;> simp [modes_store_of_lt, halfAt_store_other, hs, classify_amNone]
  case bothNone =>
    obtain ⟨-, -, -, da, sa, dp, hda, hsa, hdp, hexec⟩ :=
      (exec_addrdec_cases s h).resolve_right fun ⟨hcause, _⟩ => hcause ⟨hi, by simp [hd], by simp [hs]⟩
    rw [hd, classify_amNone, Option.some.injEq] at hda hdp
    rw [hs, classify_amNone, Option.some.injEq] at hsa
    subst hda hsa hdp
    exact ⟨_, answers_of_exec hexec⟩

end Sys2Proof.Machine

/-! TruncatedBuffer and MtuExceeded (60_exceptions.md R182, R186): which operations raise them, and when. -/

namespace Sys2Proof.Machine

/-- The response an operation delivers is the one it answers with. -/
theorem answers_iff_of_exec {i : Instr} {s : State} {r r' : Response} (h : exec i s = .next (s.deliver r')) :
    Answers i s r ↔ r = r' :=
  ⟨fun ha => ha.eq_of_exec h, fun hr => hr ▸ answers_of_exec h⟩

/-- A buffer operation answers TruncatedBuffer exactly below 10. -/
theorem answers_truncatedBuffer_iff {b : Buffer} {i : Instr} {s : State} (hi : i ∈ bufferOps b) :
    Answers i s (.failed .truncatedBuffer) ↔ b.len < 10 := by
  obtain h | h := Nat.lt_or_ge b.len 10
  · exact iff_of_true (answers_of_exec (exec_of_mem_bufferOps_of_lt s hi h)) h
  · obtain ⟨r, hr, hne⟩ := exec_of_mem_bufferOps_of_le s hi h
    exact iff_of_false (fun ha => hne (ha.eq_of_exec hr).symm) (by omega)

/-- Settles O27: the buffer operations by either side of the size check, the codec by the one response it delivers. -/
theorem truncatedBufferExactlyBelowTen : Obligations.TruncatedBufferExactlyBelowTen := by
  refine ⟨fun b i s hi => answers_truncatedBuffer_iff hi, fun raw s => ?fcfdec, fun f s => ?fcfenc, rfl⟩
  case fcfdec => simp [answers_iff_of_exec (exec_fcfdec raw s)]
  case fcfenc => simp [answers_iff_of_exec (exec_fcfenc f s)]

/-- A buffer operation that answers other than TruncatedBuffer has at least 10 bytes. -/
theorem le_len_of_answers {b : Buffer} {i : Instr} {s : State} {r : Response} (hi : i ∈ bufferOps b)
    (ha : Answers i s r) (hr : r ≠ .failed .truncatedBuffer) : 10 ≤ b.len := by
  by_contra h
  exact hr (ha.eq_of_exec (exec_of_mem_bufferOps_of_lt s hi (by omega)))

/-- LENCHK answers MtuExceeded exactly when the size check passes and the length byte exceeds 127. -/
theorem answers_lenchk_mtuExceeded_iff {b : Buffer} {s : State} :
    Answers (.lenchk b) s (.failed .mtuExceeded) ↔ 10 ≤ b.len ∧ 127 < ((s.snapshot b).byteAt 0).toNat := by
  have hlen (ha : Answers (.lenchk b) s (.failed .mtuExceeded)) : 10 ≤ b.len :=
    le_len_of_answers (by simp [mem_bufferOps]) ha (by simp)
  rw [← and_iff_right_of_imp hlen]
  refine and_congr_right fun h => ?_
  rw [answers_iff_of_exec (exec_lenchk_of_le s h)]
  split <;> simp [*]

/-- No operation but LENCHK answers MtuExceeded. -/
theorem eq_lenchk_of_answers_mtuExceeded {i : Instr} {s : State} (ha : Answers i s (.failed .mtuExceeded)) :
    ∃ b, i = .lenchk b := by
  have hlen {b : Buffer} (hi : i ∈ bufferOps b) : 10 ≤ b.len := le_len_of_answers hi ha (by simp)
  cases i with
  | fcfdec raw => cases ha.eq_of_exec (exec_fcfdec raw s)
  | fcfenc f => cases ha.eq_of_exec (exec_fcfenc f s)
  | ackreq b => cases ha.eq_of_exec (exec_ackreq_of_le s (hlen (by simp [mem_bufferOps])))
  | addrdec b =>
    obtain ⟨-, -, -, da, sa, dp, -, -, -, hok⟩ | ⟨-, hraise⟩ :=
      exec_addrdec_cases s (hlen (b := b) (by simp [mem_bufferOps]))
    · cases ha.eq_of_exec hok
    · cases ha.eq_of_exec hraise
  | hdrx b => cases ha.eq_of_exec (exec_hdrx_of_le s (hlen (by simp [mem_bufferOps])))
  | lenchk b => exact ⟨b, rfl⟩

/-- Settles O29: MtuExceeded implies that the size check passed, so HDRX of the same buffer delivers its header. -/
theorem mtuExceededByLenchkOnly : Obligations.MtuExceededByLenchkOnly := by
  refine ⟨fun b s => answers_lenchk_mtuExceeded_iff, fun i s => eq_lenchk_of_answers_mtuExceeded, rfl,
    fun b s ha => ?lengthFromHdrx⟩
  case lengthFromHdrx =>
    obtain ⟨h, -⟩ := answers_lenchk_mtuExceeded_iff.mp ha
    exact ⟨_, answers_of_exec (exec_hdrx_of_le s h), rfl⟩

end Sys2Proof.Machine

/-! The response of a request is a function of the request alone (70_reset_and_hazards.md R217): two transactions of one
buffer operation that read the same bytes at offsets 0 to 9 answer alike. -/

namespace Sys2Proof.Machine

/-- The operations at one place of `bufferOps`, on two buffers, are one and the same operation. -/
theorem same_bufferOp_of_getElem? {b b' : Buffer} {k : Nat} {i i' : Instr} (hi : (bufferOps b)[k]? = some i)
    (hi' : (bufferOps b')[k]? = some i') :
    i = .ackreq b ∧ i' = .ackreq b' ∨ i = .addrdec b ∧ i' = .addrdec b' ∨
      i = .hdrx b ∧ i' = .hdrx b' ∨ i = .lenchk b ∧ i' = .lenchk b' := by
  match k with
  | 0 | 1 | 2 | 3 => simp_all [bufferOps]
  | k + 4 => simp [bufferOps] at hi

/-- HDRX delivers what the transaction reads at offsets 0 to 9 and sees nothing else. -/
theorem answerAlike_hdrx_of_sameByte {b b' : Buffer} {s s' : State} (h : 10 ≤ b.len) (h' : 10 ≤ b'.len)
    (hsame : ∀ off < 10, SameByte (s.snapshot b) (s'.snapshot b') off) : AnswerAlike (.hdrx b) s (.hdrx b') s' := by
  have same (off : Nat) (hoff : off < 10) : (s'.snapshot b').byteAt off = (s.snapshot b).byteAt off :=
    (hsame off hoff).symm
  refine answerAlike_of_exec (exec_hdrx_of_le s h) ?_
  rw [exec_hdrx_of_le s' h']
  simp [same]

/-- From 10 bytes on a buffer operation sees nothing but the bytes at offsets 0 to 9. -/
theorem answerAlike_of_sameByte {b b' : Buffer} {k : Nat} {i i' : Instr} {s s' : State}
    (hi : (bufferOps b)[k]? = some i) (hi' : (bufferOps b')[k]? = some i') (h : 10 ≤ b.len) (h' : 10 ≤ b'.len)
    (hsame : ∀ off < 10, SameByte (s.snapshot b) (s'.snapshot b') off) : AnswerAlike i s i' s' := by
  have hbyte (off : Nat) (hoff : off < 10) : (s.snapshot b).byteAt off = (s'.snapshot b').byteAt off := hsame off hoff
  obtain ⟨hackreq, haddrdec, hlenchk⟩ := answerAlike_of_agree_outside_reserved (iff_of_false (by omega) (by omega))
    (congrArg (· &&& 0x7F#8) (hbyte 1 (by omega))) (congrArg (· &&& 0xCC#8) (hbyte 2 (by omega)))
    (fun off hoff _ _ => hsame off hoff)
  obtain ⟨rfl, rfl⟩ | ⟨rfl, rfl⟩ | ⟨rfl, rfl⟩ | ⟨rfl, rfl⟩ := same_bufferOp_of_getElem? hi hi'
  · exact hackreq
  · exact haddrdec
  · exact answerAlike_hdrx_of_sameByte h h' hsame
  · exact hlenchk

/-- Of bytes the host has below 10 (70_reset_and_hazards.md R214), two transactions on buffers that hold the same read
the same. -/
theorem sameByte_of_backed {b b' : Buffer} {s s' : State} {off : Nat} (hb : b.backed)
    (hread : b.bytes.read? off = b'.bytes.read? off) (hoff : off < 10) (hlen : off < b.len) :
    SameByte (s.snapshot b) (s'.snapshot b') off :=
  (byteAt_of_isSome hread.symm (hb off hoff hlen)).symm

/-- Settles O16: the codec delivers a response that does not mention the state; a buffer operation reads nothing below
10, and from 10 on only bytes that both buffers hold alike. -/
theorem sameRequestGivesSameResponse : Obligations.SameRequestGivesSameResponse := by
  refine ⟨fun raw s s' => ?fcfdec, fun f s s' => ?fcfenc, fun b b' k i i' s s' hi hi' hlen hread hb => ?buffer⟩
  case fcfdec => exact answerAlike_of_exec (exec_fcfdec raw s) (exec_fcfdec raw s')
  case fcfenc => exact answerAlike_of_exec (exec_fcfenc f s) (exec_fcfenc f s')
  case buffer =>
    obtain h | h := Nat.lt_or_ge b.len 10
    · exact answerAlike_of_mem_bufferOps_of_lt s s' (List.mem_of_getElem? hi) (List.mem_of_getElem? hi') h (hlen ▸ h)
    · have hsame (off : Nat) (hoff : off < 10) : SameByte (s.snapshot b) (s'.snapshot b') off :=
        have hbelow : off < b.len := by omega
        sameByte_of_backed hb (hread off hbelow) hoff hbelow
      exact answerAlike_of_sameByte hi hi' h (hlen ▸ h) hsame

end Sys2Proof.Machine

/-! The decoder and the encoder (30_encoding.md R77, R80, R81): what each select code comes to, said once, and the two
round trips. -/

namespace Sys2Proof

/-- What a request decodes to, by its select code. -/
theorem decode_cases (r : Request) :
    (r.op = 0b000#3 ∧ decode r = .op (.fcfdec r.fcf_in)) ∨
    (r.op = 0b001#3 ∧ decode r = .op (.fcfenc r.fld_in)) ∨
    (r.op = 0b010#3 ∧ decode r = .op (.ackreq r.buffer)) ∨
    (r.op = 0b011#3 ∧ decode r = .op (.addrdec r.buffer)) ∨
    (r.op = 0b100#3 ∧ decode r = .op (.hdrx r.buffer)) ∨
    (r.op = 0b101#3 ∧ decode r = .op (.lenchk r.buffer)) ∨
    ((r.op = 0b110#3 ∨ r.op = 0b111#3) ∧ decode r = .reserved r.op) := by
  have hcodes : ∀ c : BitVec 3, c = 0b000#3 ∨ c = 0b001#3 ∨ c = 0b010#3 ∨ c = 0b011#3 ∨ c = 0b100#3 ∨ c = 0b101#3 ∨
    c = 0b110#3 ∨ c = 0b111#3 := by decide
  obtain h | h | h | h | h | h | h | h := hcodes r.op <;> simp [decode, h]

/-- A number that fits the port is what the port holds of it. -/
theorem toNat_ofNat_bufLen {n : Nat} (h : bufLenFits n = true) : (BitVec.ofNat Config.bufLenW n).toNat = n := by
  rw [BitVec.toNat_ofNat]
  exact Nat.mod_eq_of_lt (by simpa [bufLenFits] using h)

/-- What the port holds fits the port. -/
theorem bufLenFits_toNat (x : BitVec Config.bufLenW) : bufLenFits x.toNat = true := decide_eq_true x.isLt

/-- The ports that carry a buffer whose length fits present that buffer. -/
theorem buffer_of_ports {r : Request} {b : Buffer} (hfits : bufLenFits b.len = true)
    (hlen : r.buf_len = BitVec.ofNat Config.bufLenW b.len) (hbuf : r.buf = b.bytes) : r.buffer = b := by
  rw [Request.buffer, hlen, hbuf, toNat_ofNat_bufLen hfits]

/-- Settles O1: the encoder sets the select and the operand ports that the decoder looks at. -/
theorem decodeOfEncodeIsTheOperation : Obligations.DecodeOfEncodeIsTheOperation := by
  intro i hi
  cases i with
  | fcfdec raw => rfl
  | fcfenc f => rfl
  | ackreq b => exact congrArg (Decoded.op <| .ackreq ·) (buffer_of_ports hi rfl rfl)
  | addrdec b => exact congrArg (Decoded.op <| .addrdec ·) (buffer_of_ports hi rfl rfl)
  | hdrx b => exact congrArg (Decoded.op <| .hdrx ·) (buffer_of_ports hi rfl rfl)
  | lenchk b => exact congrArg (Decoded.op <| .lenchk ·) (buffer_of_ports hi rfl rfl)

/-- Settles O2: an operation has the ports its request gave it, and the encoder puts them back. -/
theorem encodeOfDecodeKeepsTheUsedPorts : Obligations.EncodeOfDecodeKeepsTheUsedPorts := by
  intro r i hi
  obtain ⟨hop, hd⟩ | ⟨hop, hd⟩ | ⟨hop, hd⟩ | ⟨hop, hd⟩ | ⟨hop, hd⟩ | ⟨hop, hd⟩ | ⟨-, hd⟩ := decode_cases r <;>
    cases hd.symm.trans hi <;>
    simp [Instr.wellFormed, encode, bareRequest, hop, bufLenFits_toNat]

/-- Settles O3: each request is written out, so its select code picks its arm of the decoder. -/
theorem selectCodesNameTheOperations : Obligations.SelectCodesNameTheOperations := by
  refine ⟨rfl, rfl, rfl, rfl, rfl, rfl, rfl, rfl⟩

end Sys2Proof

/-! Every operation delivers a response FP154 may give (60_exceptions.md R184, R185, 43_addressing.md R165), and what a
step can do, by the host's next action. -/

namespace Sys2Proof.Machine

/-- The destination mode of a word is its bits 11:10. -/
theorem extractFields_dest_mode (x : Half) : (extractFields x).dest_mode = x.extractLsb' 10 2 := by
  rw [extractFields_eq]

/-- The source mode of a word is its bits 15:14. -/
theorem extractFields_src_mode (x : Half) : (extractFields x).src_mode = x.extractLsb' 14 2 := by
  rw [extractFields_eq]

/-- FCFENC's note speaks of the modes in the word it delivers. -/
theorem legal_fcfOut (f : FrameControlFields) :
    (Response.ok (.fcfOut (insertFields f)) (noteOf f.dest_mode f.src_mode)).Legal := by
  have hf := extractFields_insertFields f
  rw [Response.Legal, ← extractFields_dest_mode, ← extractFields_src_mode, hf]
  exact noteOf_says ..

/-- What the addressing decode ends in is delivered as a legal response. -/
theorem finish_decodeAddressing_legal (s : State) (f : FrameControlFields) (destpan dest src : Half) :
    ∃ r, finish s (decodeAddressing f destpan dest src) = .next (s.deliver r) ∧ r.Legal := by
  obtain ⟨-, -, -, da, sa, dp, hda, hsa, hdp, hok⟩ | ⟨hcause, hraise⟩ := decodeAddressing_cases f destpan dest src
  · refine ⟨_, congrArg (finish s) hok, rfl, ?_, ?_⟩
    · rw [classify_tag hda, classify_tag hdp]
    · rw [classify_tag hda, classify_tag hsa]
      exact noteOf_says ..
  · exact ⟨_, congrArg (finish s) hraise, fun hinfo => hcause ((infoOf_eq_zero _ _ _).mp hinfo)⟩

/-- From 10 bytes on each buffer operation delivers a legal response. -/
theorem exec_legal_of_mem_bufferOps_of_le {b : Buffer} {i : Instr} (s : State) (hi : i ∈ bufferOps b)
    (h : 10 ≤ b.len) : ∃ r, exec i s = .next (s.deliver r) ∧ r.Legal := by
  obtain rfl | rfl | rfl | rfl := mem_bufferOps.mp hi
  · exact ⟨_, exec_ackreq_of_le s h, rfl⟩
  · rw [exec_addrdec_of_le s h]
    exact finish_decodeAddressing_legal ..
  · exact ⟨_, exec_hdrx_of_le s h, rfl⟩
  · refine ⟨_, exec_lenchk_of_le s h, ?_⟩
    split
    · trivial
    · rfl

/-- Every operation delivers a legal response, in every state. -/
theorem exec_legal (i : Instr) (s : State) : ∃ r, exec i s = .next (s.deliver r) ∧ r.Legal := by
  have hbuffer (b : Buffer) (hi : i ∈ bufferOps b) : ∃ r, exec i s = .next (s.deliver r) ∧ r.Legal := by
    obtain h | h := Nat.lt_or_ge b.len 10
    · exact ⟨_, exec_of_mem_bufferOps_of_lt s hi h, trivial⟩
    · exact exec_legal_of_mem_bufferOps_of_le s hi h
  cases i with
  | fcfdec raw => exact ⟨_, exec_fcfdec raw s, noteOf_says ..⟩
  | fcfenc f => exact ⟨_, exec_fcfenc f s, legal_fcfOut f⟩
  | ackreq b | addrdec b | hdrx b | lenchk b => exact hbuffer b (by simp [mem_bufferOps])

section Step

variable {s : State} {r : Request} {rest : List HostAction}

/-- Without an action the step changes nothing. -/
theorem step_of_inbox_nil (h : s.inbox = []) : step s = .next s := by
  simp only [step, h]

/-- A request that decodes to an operation is answered by the operation. -/
theorem step_of_decode_op {i : Instr} (h : s.inbox = .request r :: rest) (hd : decode r = .op i) :
    step s = exec i { s with inbox := rest } := by
  simp only [step, h, hd]

/-- A request with a reserved select is answered IllegalOp. -/
theorem step_of_decode_reserved {code : BitVec 3} (h : s.inbox = .request r :: rest)
    (hd : decode r = .reserved code) :
    step s = .next (State.deliver { s with inbox := rest } (.failed .illegalOp)) := by
  simp only [step, h, hd]
  rfl

/-- A reset is taken off and does nothing. -/
theorem step_of_reset (h : s.inbox = .reset :: rest) : step s = .next { s with inbox := rest } := by
  simp only [step, h, resetSignal_eq]

/-- A request cut by reset is taken off and does nothing. -/
theorem step_of_requestCutByReset (h : s.inbox = .requestCutByReset r :: rest) :
    step s = .next { s with inbox := rest } := by
  simp only [step, h, cutTransaction_eq]

/-- A request is taken off and answered by one legal response. -/
theorem step_of_request (h : s.inbox = .request r :: rest) :
    ∃ a, step s = .next (State.deliver { s with inbox := rest } a) ∧ a.Legal := by
  cases hd : decode r with
  | op i =>
    rw [step_of_decode_op h hd]
    exact exec_legal i _
  | reserved code => exact ⟨_, step_of_decode_reserved h hd, trivial⟩

end Step

/-- What a step can do: nothing, without an action; take off a request and deliver a legal response to it; or take off
an action of reset. -/
theorem step_cases (s : State) :
    (s.inbox = [] ∧ step s = .next s) ∨
    ∃ action rest, s.inbox = action :: rest ∧
      ((∃ a, step s = .next (State.deliver { s with inbox := rest } a) ∧ a.Legal) ∨
        step s = .next { s with inbox := rest }) := by
  match h : s.inbox with
  | [] => exact .inl ⟨rfl, step_of_inbox_nil h⟩
  | .request r :: rest => exact .inr ⟨_, rest, rfl, .inl (step_of_request h)⟩
  | .reset :: rest => exact .inr ⟨_, rest, rfl, .inr (step_of_reset h)⟩
  | .requestCutByReset r :: rest => exact .inr ⟨_, rest, rfl, .inr (step_of_requestCutByReset h)⟩

/-- The invariant stays when an action is taken off. -/
theorem State.Inv.tail {s : State} {action : HostAction} {rest : List HostAction} (hs : s.Inv)
    (h : s.inbox = action :: rest) : State.Inv { s with inbox := rest } where
  buffers_wf a ha := hs.buffers_wf a (h ▸ List.mem_cons_of_mem action ha)
  responses_legal := hs.responses_legal

/-- The invariant stays when a legal response is delivered. -/
theorem State.Inv.deliver {s : State} {r : Response} (hs : s.Inv) (hr : r.Legal) : (s.deliver r).Inv where
  buffers_wf := hs.buffers_wf
  responses_legal := by
    simpa [or_imp, forall_and, hr] using hs.responses_legal

/-- Settles O12: a step takes off an action and delivers at most one response, a legal one. -/
theorem everyStepKeepsTheInvariant : Obligations.EveryStepKeepsTheInvariant := by
  intro s t hs hstep
  obtain ⟨-, hwait⟩ | ⟨action, rest, hinbox, ⟨a, hanswer, ha⟩ | htaken⟩ := step_cases s
  · cases hwait.symm.trans hstep
    exact hs
  · cases hanswer.symm.trans hstep
    exact (hs.tail hinbox).deliver ha
  · cases htaken.symm.trans hstep
    exact hs.tail hinbox

/-- Settles O13: at reset no buffer is to come and no response was given. -/
theorem invariantHoldsAtReset : Obligations.InvariantHoldsAtReset where
  buffers_wf a ha := by simp [State.reset] at ha
  responses_legal r hr := by simp [State.reset] at hr

/-- Settles O4: the step decodes the request it takes off. -/
theorem stepRunsTheDecodedOperation : Obligations.StepRunsTheDecodedOperation :=
  fun _ _ _ _ h hd => step_of_decode_op h hd

/-- Settles O5: the step on a request is a delivery. -/
theorem everyRequestGetsExactlyOneResponse : Obligations.EveryRequestGetsExactlyOneResponse := by
  intro s r rest h
  obtain ⟨a, hstep, -⟩ := step_of_request h
  exact ⟨_, a, hstep, delivered_deliver _ a⟩

/-- Settles O6: each thing a step can do ends in a next state. -/
theorem noStepEverStops : Obligations.NoStepEverStops := by
  intro s
  obtain ⟨-, hwait⟩ | ⟨action, rest, -, ⟨a, hanswer, -⟩ | htaken⟩ := step_cases s
  · exact ⟨s, hwait⟩
  · exact ⟨_, hanswer⟩
  · exact ⟨_, htaken⟩

/-- A reserved select decodes to no operation. -/
theorem decode_of_reserved {r : Request} (hop : r.op = 0b110#3 ∨ r.op = 0b111#3) : decode r = .reserved r.op := by
  obtain hop | hop := hop <;> simp [decode, hop]

/-- Settles O7: a reserved select decodes to no operation, whatever the other ports hold. -/
theorem reservedSelectAnswersIllegalOp : Obligations.ReservedSelectAnswersIllegalOp := by
  intro s r rest h hop
  exact ⟨_, _, step_of_decode_reserved h (decode_of_reserved hop), delivered_deliver _ _, rfl, rfl, rfl, rfl, rfl⟩

/-- Settles O8: the waiting case of the step. -/
theorem waitingForARequestChangesNothing : Obligations.WaitingForARequestChangesNothing :=
  fun _ h => step_of_inbox_nil h

/-- Settles O9: both actions of reset are taken off and leave the state in which the next action finds it. -/
theorem resetHasNoArchitecturalEffect : Obligations.ResetHasNoArchitecturalEffect :=
  ⟨fun _ _ h => step_of_reset h, fun _ _ _ h => step_of_requestCutByReset h,
    fun _ _ _ h => ⟨_, step_of_requestCutByReset h, rfl, rfl, rfl⟩⟩

/-- Settles O18: what an operation ends in is the delivery of one response. -/
theorem noOperationWritesTheBuffer : Obligations.NoOperationWritesTheBuffer := by
  intro i s t hexec
  obtain ⟨r, hr⟩ := exec_eq_deliver i s
  cases hr.symm.trans hexec
  exact ⟨rfl, fun b off hread => byteAt_of_isSome rfl hread, r, rfl⟩

/-- Settles O46: the state after a request is the delivery of its response, which the responses show. -/
theorem nothingOfATransactionStays : Obligations.NothingOfATransactionStays := by
  intro s t t' r r' rest hstep hstep' hresponses
  obtain ⟨a, ha, -⟩ := step_of_request (s := { s with inbox := .request r :: rest }) rfl
  obtain ⟨a', ha', -⟩ := step_of_request (s := { s with inbox := .request r' :: rest }) rfl
  cases ha.symm.trans hstep
  cases ha'.symm.trans hstep'
  obtain rfl : a = a' := by simpa using hresponses
  rfl

end Sys2Proof.Machine

/-! The codec (40_fcf_codec.md): the members as bit fields of the word, the word as the sum of the members, the
re-serialisation law, and what changing one bit or one member changes. -/

namespace Sys2Proof.Machine

/-- Settles O19: the members are the bit fields at their places, and the note speaks of the modes among them. -/
theorem fcfdecDeliversTheNineFields : Obligations.FcfdecDeliversTheNineFields := by
  intro raw s
  refine ⟨_, _, _, exec_fcfdec raw s, delivered_deliver s _, ?_⟩
  obtain ⟨hdest, hsrc⟩ := noteOf_says (extractFields raw).dest_mode (extractFields raw).src_mode
  rw [extractFields_eq] at hdest hsrc ⊢
  exact ⟨rfl, rfl, rfl, rfl, rfl, rfl, rfl, rfl, rfl, hdest, hsrc⟩

/-- A word is the sum of its members at their places. -/
theorem toNat_eq_sum_extractFields (x : Half) :
    x.toNat = (extractFields x).frame_type.toNat + 2 ^ 3 * (extractFields x).security.toNat
      + 2 ^ 4 * (extractFields x).pending.toNat + 2 ^ 5 * (extractFields x).ack_req.toNat
      + 2 ^ 6 * (extractFields x).intra_pan.toNat + 2 ^ 7 * (extractFields x).rsv7_9.toNat
      + 2 ^ 10 * (extractFields x).dest_mode.toNat + 2 ^ 12 * (extractFields x).rsv12_13.toNat
      + 2 ^ 14 * (extractFields x).src_mode.toNat := by
  have hx := x.isLt
  simp only [extractFields_eq, BitVec.extractLsb'_toNat, Nat.shiftRight_eq_div_pow]
  omega

/-- Settles O20: the members of an assembled word are those it was assembled from, and every word is the sum of its
members. -/
theorem fcfencPutsEveryMemberInItsPlace : Obligations.FcfencPutsEveryMemberInItsPlace := by
  intro f s
  have hsum := toNat_eq_sum_extractFields (insertFields f)
  rw [extractFields_insertFields] at hsum
  exact ⟨_, _, _, exec_fcfenc f s, delivered_deliver s _, hsum, noteOf_says ..⟩

/-- The word assembled from the fields of a word is the word. -/
theorem insertFields_extractFields (x : Half) : insertFields (extractFields x) = x := by
  apply BitVec.eq_of_toNat_eq
  rw [toNat_eq_sum_extractFields, extractFields_insertFields, ← toNat_eq_sum_extractFields]

/-- FCFENC of the fields of a word delivers the word, with the note of its modes. -/
theorem exec_fcfenc_extractFields (x : Half) (s : State) :
    exec (.fcfenc (extractFields x)) s =
      .next (s.deliver (.ok (.fcfOut x) (noteOf (extractFields x).dest_mode (extractFields x).src_mode))) := by
  rw [exec_fcfenc, insertFields_extractFields]

/-- Settles O22: assembly inverts extraction, and each note is that of the word's modes. -/
theorem fcfencOfFcfdecIsTheWord : Obligations.FcfencOfFcfdecIsTheWord := by
  intro x s
  refine ⟨_, extractFields x, _, exec_fcfdec x s, delivered_deliver s _, fun s' => ?_⟩
  exact answers_of_exec (exec_fcfenc_extractFields x s')

/-- The bits of a word with one bit inverted. -/
theorem getLsbD_xor_bit (x : Half) {b : Nat} (hb : b < 16) (k : Nat) :
    (x ^^^ (1#16 <<< b)).getLsbD k = (x.getLsbD k ^^ decide (k = b)) := by
  rw [BitVec.getLsbD_xor, ← BitVec.twoPow_eq, BitVec.getLsbD_twoPow]
  simp [hb, eq_comm]

/-- Inverting one bit of a word changes a bit field exactly when the bit lies in it. -/
theorem extractLsb'_ne_xor_bit_iff (x : Half) {b : Nat} (hb : b < 16) (start w : Nat) :
    x.extractLsb' start w ≠ (x ^^^ (1#16 <<< b)).extractLsb' start w ↔ start ≤ b ∧ b < start + w := by
  constructor
  · intro hne
    by_contra hout
    refine hne (BitVec.eq_of_getLsbD_eq fun k hk => ?_)
    simp [getLsbD_xor_bit x hb, show start + k ≠ b by omega]
  · rintro ⟨hstart, hend⟩ heq
    have hbit := congrArg (·.getLsbD (b - start)) heq
    simp [getLsbD_xor_bit x hb, show b - start < w by omega, show start + (b - start) = b by omega] at hbit

/-- The bits of a member's in-place mask (30_encoding.md R71) are those from its place on, as many as it is wide. -/
theorem mask_getLsbD_iff (start w : Nat) {b : Nat} (hb : b < 16) :
    (BitVec.ofNat 16 ((2 ^ w - 1) <<< start)).getLsbD b = true ↔ start ≤ b ∧ b < start + w := by
  rw [BitVec.getLsbD_ofNat, Nat.testBit_shiftLeft, Nat.testBit_two_pow_sub_one]
  have hwidth : start ≤ b → (b - start < w ↔ b < start + w) := by omega
  simpa [hb] using hwidth

/-- Settles O23: a member changes when the bit lies in its bit field, which is what its mask says. -/
theorem invertingOneBitChangesOneMember : Obligations.InvertingOneBitChangesOneMember := by
  intro x b s s' hb
  refine ⟨_, _, _, _, answers_of_exec (exec_fcfdec x s), answers_of_exec (exec_fcfdec _ s'), ?_⟩
  have hmember (start w : Nat) : x.extractLsb' start w ≠ (x ^^^ (1#16 <<< b)).extractLsb' start w ↔
      (BitVec.ofNat 16 ((2 ^ w - 1) <<< start)).getLsbD b = true :=
    (extractLsb'_ne_xor_bit_iff x hb start w).trans (mask_getLsbD_iff start w hb).symm
  rw [extractFields_eq, extractFields_eq]
  exact ⟨hmember 0 3, hmember 3 1, hmember 4 1, hmember 5 1, hmember 6 1, hmember 7 3, hmember 10 2, hmember 12 2,
    hmember 14 2⟩

/-- Changing Ack Request changes bit 5 of the assembled word and no other. -/
theorem insertFields_ack_req_getLsbD (f : FrameControlFields) (v : BitVec 1) (k : Nat) :
    (insertFields { f with ack_req := v }).getLsbD k =
      if k = 5 then v.getLsbD 0 else (insertFields f).getLsbD k := by
  simp only [insertFields_getLsbD]
  obtain h | rfl | h : k < 5 ∨ k = 5 ∨ 6 ≤ k := by omega
  · simp [h, show k ≠ 5 by omega]
  · rfl
  · simp [show ¬ k < 6 by omega, show k ≠ 5 by omega]

/-- Settles O24: the word assembled from a word's own fields is the word. -/
theorem editingAckRequestKeepsTheOtherBits : Obligations.EditingAckRequestKeepsTheOtherBits := by
  intro x v s s'
  refine ⟨_, _, _, _, answers_of_exec (exec_fcfdec x s), answers_of_exec (exec_fcfenc _ s'), fun k _ => ?_⟩
  rw [insertFields_ack_req_getLsbD, insertFields_extractFields]

end Sys2Proof.Machine

/-! The kinds of response (60_exceptions.md R181 to R192): their codes at the ports, which operation ends in which, and
that each is reached. -/

namespace Sys2Proof.Machine

/-- Settles O30: one case per kind of response. -/
theorem statusInfoAndNoteAtThePorts : Obligations.StatusInfoAndNoteAtThePorts := by
  intro r
  match r with
  | .ok result note => simp [Response.status, Response.info, Response.result?]
  | .failed .truncatedBuffer => simp [Response.status, Response.info, Response.note, Response.result?]
  | .failed (.unrepresentableAddressing info) => simp [Response.status, Response.note, Response.result?]
  | .failed .mtuExceeded => simp [Response.status, Response.info, Response.note, Response.result?]
  | .failed .illegalOp => simp [Response.status, Response.info, Response.note, Response.result?]

/-- A buffer operation's response is TruncatedBuffer, or its buffer has at least 10 bytes. -/
theorem eq_truncatedBuffer_or_le_len {b : Buffer} {i : Instr} {s : State} {r : Response} (hi : i ∈ bufferOps b)
    (ha : Answers i s r) : r = .failed .truncatedBuffer ∨ 10 ≤ b.len :=
  or_iff_not_imp_left.mpr (le_len_of_answers hi ha)

/-- Settles O31: each operation by the one response it delivers, a buffer operation on either side of the size check. -/
theorem operationsEndOnlyInTheirKinds : Obligations.OperationsEndOnlyInTheirKinds := by
  intro i s r ha
  have hsize {b : Buffer} (hi : i ∈ bufferOps b) : r = .failed .truncatedBuffer ∨ 10 ≤ b.len :=
    eq_truncatedBuffer_or_le_len hi ha
  cases i with
  | fcfdec raw => exact ⟨_, _, ha.eq_of_exec (exec_fcfdec raw s)⟩
  | fcfenc f => exact ⟨_, _, ha.eq_of_exec (exec_fcfenc f s)⟩
  | ackreq b =>
    obtain rfl | h := hsize (b := b) (by simp [mem_bufferOps])
    · exact .inr rfl
    · exact .inl ⟨_, ha.eq_of_exec (exec_ackreq_of_le s h)⟩
  | addrdec b =>
    obtain rfl | h := hsize (b := b) (by simp [mem_bufferOps])
    · exact .inr (.inl rfl)
    · obtain ⟨-, -, -, da, sa, dp, -, -, -, hok⟩ | ⟨hcause, hraise⟩ := exec_addrdec_cases s h
      · exact .inl ⟨_, _, ha.eq_of_exec hok⟩
      · obtain ⟨r', hr', hlegal⟩ := exec_legal (.addrdec b) s
        obtain rfl := ha.eq_of_exec hr'
        obtain rfl := ha.eq_of_exec hraise
        exact .inr (.inr ⟨_, hlegal, rfl⟩)
  | hdrx b =>
    obtain rfl | h := hsize (b := b) (by simp [mem_bufferOps])
    · exact .inr rfl
    · exact .inl ⟨_, ha.eq_of_exec (exec_hdrx_of_le s h)⟩
  | lenchk b =>
    obtain rfl | h := hsize (b := b) (by simp [mem_bufferOps])
    · exact .inr (.inl rfl)
    · have hr := ha.eq_of_exec (exec_lenchk_of_le s h)
      split at hr
      · exact .inr (.inr hr)
      · exact .inl hr

/-- No operation but ADDRDEC answers UnrepresentableAddressing. -/
theorem eq_addrdec_of_answers_unrepresentableAddressing {i : Instr} {s : State} {info : BitVec 3}
    (ha : Answers i s (.failed (.unrepresentableAddressing info))) : ∃ b, i = .addrdec b := by
  have hkinds := operationsEndOnlyInTheirKinds i s _ ha
  cases i with
  | addrdec b => exact ⟨b, rfl⟩
  | fcfdec _ | fcfenc _ | ackreq _ | hdrx _ | lenchk _ => simp at hkinds

/-- From 10 bytes on ADDRDEC answers UnrepresentableAddressing exactly under one of its causes. -/
theorem answers_addrdec_unrepresentableAddressing_iff {b : Buffer} {s : State} (h : 10 ≤ b.len) :
    (∃ info, Answers (.addrdec b) s (.failed (.unrepresentableAddressing info))) ↔
      (s.snapshot b).destMode = 3#2 ∨ (s.snapshot b).srcMode = 3#2 ∨ (s.snapshot b).intraPan = false := by
  obtain ⟨hi, hd, hs, da, sa, dp, -, -, -, hok⟩ | ⟨hcause, hraise⟩ := exec_addrdec_cases s h
  · simp [answers_iff_of_exec hok, hi, hd, hs]
  · refine iff_of_true ⟨_, answers_of_exec hraise⟩ ?_
    by_contra! hnone
    obtain ⟨hd, hs, hi⟩ := hnone
    exact hcause ⟨by simpa using hi, hd, hs⟩

/-- Settles O28: ADDRDEC by its two cases from 10 bytes on, the other operations by their kinds. -/
theorem unrepresentableAddressingByAddrdecOnly : Obligations.UnrepresentableAddressingByAddrdecOnly :=
  ⟨fun _ _ h => answers_addrdec_unrepresentableAddressing_iff h,
    fun _ _ _ ha => eq_addrdec_of_answers_unrepresentableAddressing ha⟩

/-- A frame of ten bytes with the given length byte and FCF bytes. -/
def tenByteFrame (length lo hi : Byte) : Buffer :=
  .ofBytes [length, lo, hi, 0x01#8, 0x22#8, 0x00#8, 0x34#8, 0x12#8, 0x78#8, 0x56#8]

/-- Settles O32: a run from reset for each kind, on a frame whose FCF or length byte calls for it. -/
theorem everyPossibleKindIsReached : Obligations.EveryPossibleKindIsReached :=
  ⟨⟨0x0400#16, .reset, _, 0b01#2, by decide, answers_of_exec rfl⟩,
    ⟨{ zeroFields with src_mode := 1#2 }, .reset, _, 0b10#2, by decide, answers_of_exec rfl⟩,
    ⟨tenByteFrame 0x0B#8 0x61#8 0x88#8, .reset, answers_of_exec rfl⟩,
    ⟨tenByteFrame 0x0B#8 0x41#8 0x88#8, .reset, answers_of_exec rfl⟩,
    ⟨tenByteFrame 0x0B#8 0x61#8 0x84#8, .reset, _, 0b01#2, by decide, answers_of_exec rfl⟩,
    ⟨tenByteFrame 0x0B#8 0x61#8 0x8C#8, .reset, 0b001#3, answers_of_exec rfl⟩,
    ⟨tenByteFrame 0x0B#8 0x61#8 0x88#8, .reset, _, answers_of_exec rfl⟩,
    ⟨tenByteFrame 0x0B#8 0x61#8 0x88#8, .reset, answers_of_exec rfl⟩,
    ⟨tenByteFrame 0x80#8 0x61#8 0x88#8, .reset, answers_of_exec rfl⟩,
    ⟨.ofBytes [], .reset, fun _ hi => answers_of_exec (exec_of_mem_bufferOps_of_lt .reset hi (by decide))⟩⟩

end Sys2Proof.Machine

/-! HDRX and LENCHK (41_header_validate.md): the header as the layout of the first ten bytes read, what a host's store
changes of it, and the length byte. -/

namespace Sys2Proof.Machine

/-- The header at offsets 0 to 9 of what a transaction reads (20_memory.md R44, R45). -/
def Snapshot.header (b : Snapshot) : CombinedHeader where
  length := b.byteAt 0
  fcf := b.halfAt 1
  dsn := b.byteAt 3
  destpan := b.halfAt 4
  dest := b.halfAt 6
  src := b.halfAt 8

/-- HDRX from 10 bytes on delivers the header. -/
theorem exec_hdrx_header {b : Buffer} (s : State) (h : 10 ≤ b.len) :
    exec (.hdrx b) s = .next (s.deliver (.ok (.hdrOut (s.snapshot b).header) 0b00#2)) :=
  exec_hdrx_of_le s h

/-- Settles O34: the size check, then the header with its pairs of bytes as numbers. -/
theorem hdrxDeliversTheRawHeader : Obligations.HdrxDeliversTheRawHeader := by
  intro b s
  refine ⟨fun h => answers_of_exec (exec_of_mem_bufferOps_of_lt s (by simp [mem_bufferOps]) h), fun h => ?_⟩
  exact ⟨_, _, exec_hdrx_header s h, delivered_deliver s _, rfl, Snapshot.halfAt_toNat .., rfl,
    Snapshot.halfAt_toNat .., Snapshot.halfAt_toNat .., Snapshot.halfAt_toNat ..⟩

/-- The less significant byte of a little-endian pair is the one at the lower offset. -/
theorem setWidth_le16 (lo hi : Byte) : (le16 lo hi).setWidth 8 = lo := by
  refine BitVec.eq_of_getLsbD_eq fun k hk => ?_
  simp [le16_getLsbD, hk]

/-- The more significant byte of a little-endian pair is the one at the higher offset. -/
theorem setWidth_le16_shiftRight (lo hi : Byte) : (le16 lo hi >>> 8).setWidth 8 = hi := by
  refine BitVec.eq_of_getLsbD_eq fun k hk => ?_
  simp [le16_getLsbD, hk]

/-- A 16-bit value is the little-endian pair of its two bytes. -/
theorem le16_extractLsb' (x : Half) : le16 (x.extractLsb' 0 8) (x.extractLsb' 8 8) = x := by
  refine BitVec.eq_of_getLsbD_eq fun k hk => ?_
  rw [le16_getLsbD]
  split
  · next h => simp [h]
  · next h => simp [show k - 8 < 8 by omega, show 8 + (k - 8) = k by omega]

/-- The layout of the header read is the ten bytes read. -/
theorem hdrBytes_header (b : Snapshot) : hdrBytes b.header = (List.range 10).map b.byteAt := by
  simp [hdrBytes, Snapshot.header, Snapshot.halfAt, setWidth_le16, setWidth_le16_shiftRight, List.range_succ]

/-- Of the buffer of a list of bytes a transaction reads the list. -/
theorem byteAt_ofBytes (s : State) {bytes : List Byte} {off : Nat} (h : off < bytes.length) :
    (s.snapshot (.ofBytes bytes)).byteAt off = bytes[off] :=
  byteAt_of_read? (by simp [h])

/-- Settles O35: the header of a layout is put together from its own bytes, and the layout of a header read is the bytes
read. -/
theorem hdrxInvertsTheLayout : Obligations.HdrxInvertsTheLayout := by
  refine ⟨fun h tail s => ?headerOfLayout, fun bytes s hlen => ?layoutOfHeader⟩
  case headerOfLayout =>
    refine (answers_iff_of_exec (exec_hdrx_header s (by simp))).mpr ?_
    simp [Snapshot.header, Snapshot.halfAt, byteAt_ofBytes, le16_extractLsb']
  case layoutOfHeader =>
    refine ⟨_, answers_of_exec (exec_hdrx_header s hlen), ?_⟩
    rw [hdrBytes_header]
    refine List.ext_getElem (by simp [hlen]) fun k hk _ => ?_
    have hk10 : k < 10 := by simpa using hk
    simp [byteAt_ofBytes s (show k < bytes.length by omega)]

/-- A transaction reads the byte the host stored. -/
theorem byteAt_store_same (s : State) (b : Buffer) (off : Nat) (v : Byte) :
    (s.snapshot (b.store off v)).byteAt off = v :=
  byteAt_of_read? (read?_write_same ..)

/-- Settles O10: the layouts of the two headers are the bytes the two transactions read, which differ at the offset of
the store alone. -/
theorem hostStoreIsSeenByTheNextTransaction : Obligations.HostStoreIsSeenByTheNextTransaction := by
  intro b off v s h hb
  refine ⟨_, _, _, exec_hdrx_header s h, delivered_deliver s _,
    answers_of_exec (exec_hdrx_header (b := b.store off v) _ h), ?_⟩
  rw [hdrBytes_header, hdrBytes_header]
  refine List.ext_getElem (by simp) fun k hk _ => ?_
  have hk10 : k < 10 := by simpa using hk
  obtain rfl | hne := eq_or_ne off k
  · simp [byteAt_store_same]
  · have hsame (t : State) : (t.snapshot b).byteAt k = (s.snapshot b).byteAt k :=
      sameByte_of_backed hb rfl hk10 (by omega)
    simp [byteAt_store_other _ _ _ hne.symm, hne, hsame]

/-- Settles O36: the size check, then the comparison of the length byte. -/
theorem lenchkEnforcesTheMtuInvariant : Obligations.LenchkEnforcesTheMtuInvariant := by
  intro b s
  refine ⟨fun h => ?truncated, fun h hlength => ?fits, fun h hlength => ?exceeds⟩
  case truncated => exact answers_of_exec (exec_of_mem_bufferOps_of_lt s (by simp [mem_bufferOps]) h)
  case fits =>
    have hexec := exec_lenchk_of_le s h
    rw [if_neg (by omega)] at hexec
    exact answers_of_exec hexec
  case exceeds => exact answers_lenchk_mtuExceeded_iff.mpr ⟨h, hlength⟩

/-- The payload extent of a legal length. -/
theorem payloadExtent_of_legal {length : Byte} (h : 9 ≤ length.toNat ∧ length.toNat ≤ 127) :
    payloadExtent length = some (10, length.toNat - 9) :=
  if_pos h

/-- No other length has a payload extent. -/
theorem payloadExtent_of_not_legal {length : Byte} (h : ¬ (9 ≤ length.toNat ∧ length.toNat ≤ 127)) :
    payloadExtent length = none :=
  if_neg h

/-- Settles O38: the extent on either side of the bounds, and the arithmetic of its end. -/
theorem payloadExtentOnlyForLegalLengths : Obligations.PayloadExtentOnlyForLegalLengths := by
  intro length
  refine ⟨fun h => ⟨_, payloadExtent_of_legal h, rfl, by omega, ?_, rfl⟩,
    fun h => payloadExtent_of_not_legal (by omega)⟩
  simp only [frameBytes, Config.radioHdrSize]
  omega

/-- Settles O11: a read of a supplied buffer is the list's element. -/
theorem hostPlacedBufferHoldsItsBytes : Obligations.HostPlacedBufferHoldsItsBytes := by
  refine fun bytes => ⟨fun a => read?_ofBytes bytes a, ofBytes_wf bytes, fun n hn off _ hoff => ?_⟩
  have hlt : off < bytes.length := Nat.lt_of_lt_of_le hoff hn
  simp [hlt]

end Sys2Proof.Machine

/-! ACKREQ and ADDRDEC in full (42_requires_ack.md R141, R142, 43_addressing.md R161, R168, R169), and the bytes each
buffer operation depends on (20_memory.md R62). -/

namespace Sys2Proof.Machine

/-- Mode Short delivers the field as an address. -/
theorem classify_amShort (v : Half) : classify 2#2 v = some (.short v) := rfl

/-- Settles O42: the members are the classifications under the modes, and the failure has a bit for each cause. -/
theorem addrdecClassifiesOrReportsEveryCause : Obligations.AddrdecClassifiesOrReportsEveryCause := by
  intro b s intra dm sm D S P hintra hdm hsm hP hD hS
  obtain rfl : intra = (s.snapshot b).intraPan := hintra
  obtain rfl : dm = (s.snapshot b).destMode := hdm
  obtain rfl : sm = (s.snapshot b).srcMode := hsm
  obtain rfl : P = (s.snapshot b).halfAt 4 := BitVec.eq_of_toNat_eq (hP.trans (Snapshot.halfAt_toNat ..).symm)
  obtain rfl : D = (s.snapshot b).halfAt 6 := BitVec.eq_of_toNat_eq (hD.trans (Snapshot.halfAt_toNat ..).symm)
  obtain rfl : S = (s.snapshot b).halfAt 8 := BitVec.eq_of_toNat_eq (hS.trans (Snapshot.halfAt_toNat ..).symm)
  refine ⟨fun h => ?truncated, fun h hok => ?classified, fun h hcause => ?causes⟩
  case truncated => exact answers_of_exec (exec_of_mem_bufferOps_of_lt s (by simp [mem_bufferOps]) h)
  case classified =>
    obtain ⟨-, -, -, da, sa, dp, hda, hsa, hdp, hexec⟩ :=
      (exec_addrdec_cases s h).resolve_right fun ⟨hcause, _⟩ => hcause hok
    obtain ⟨hdestNote, hsrcNote⟩ := noteOf_says (s.snapshot b).destMode (s.snapshot b).srcMode
    refine ⟨_, _, _, hexec, delivered_deliver s _, ?_, ?_, ?_, ?_, ?_, ?_, rfl, hdestNote, hsrcNote⟩
    · intro hd
      simpa [hd, classify_amNone, eq_comm] using And.intro hda hdp
    · intro hd
      simpa [hd, classify_amRsv1, eq_comm] using And.intro hda hdp
    · intro hd
      simpa [hd, classify_amShort, eq_comm] using And.intro hda hdp
    · intro hs
      simpa [hs, classify_amNone, eq_comm] using hsa
    · intro hs
      simpa [hs, classify_amRsv1, eq_comm] using hsa
    · intro hs
      simpa [hs, classify_amShort, eq_comm] using hsa
  case causes =>
    obtain ⟨hi, hd, hs, -⟩ | ⟨-, hraise⟩ := exec_addrdec_cases s h
    · exact absurd ⟨hi, hd, hs⟩ hcause
    · exact ⟨_, answers_of_exec hraise, infoOf_says ..⟩

section Mask

variable {x y m : Byte}

/-- Bytes that agree under a mask agree in each bit of it. -/
theorem getLsbD_congr_of_and_eq (h : x &&& m = y &&& m) {k : Nat} (hk : m.getLsbD k = true) :
    x.getLsbD k = y.getLsbD k := by
  simpa [hk] using congrArg (·.getLsbD k) h

/-- Bytes that agree under a mask agree in each bit field of it. -/
theorem extractLsb'_congr_of_and_eq (h : x &&& m = y &&& m) {start w : Nat}
    (hfield : ∀ k < w, m.getLsbD (start + k) = true) : x.extractLsb' start w = y.extractLsb' start w := by
  refine BitVec.eq_of_getLsbD_eq fun k hk => ?_
  simp [hk, getLsbD_congr_of_and_eq h (hfield k hk)]

end Mask

/-- Settles O45: the mask of offset 2 has both modes, and the address fields lie at offsets 4 to 9. -/
theorem addrdecIgnoresEverythingElse : Obligations.AddrdecIgnoresEverythingElse := by
  intro b b' s s' hlen hi hmodes hsame
  have hhalf (off : Nat) (hlo : 4 ≤ off) (hhi : off < 9) : (s.snapshot b).halfAt off = (s'.snapshot b').halfAt off :=
    congrArg₂ le16 (hsame off hlo (by omega)) (hsame (off + 1) (by omega) (by omega))
  exact answerAlike_addrdec hlen hi (extractLsb'_congr_of_and_eq hmodes (by decide))
    (extractLsb'_congr_of_and_eq hmodes (by decide)) (congrArg _ (hhalf 6 (by omega) (by omega)))
    (congrArg _ (hhalf 8 (by omega) (by omega))) (congrArg _ (hhalf 4 (by omega) (by omega)))

/-- A truth value as a bit is 1 exactly when it is true. -/
theorem ofBool_eq_one_iff (c : Bool) : BitVec.ofBool c = 1#1 ↔ c = true := by
  cases c <;> decide

/-- The predicate holds exactly under its three conditions. -/
theorem requiresAck_eq_one_iff (frame_type : BitVec 3) (ack_req : BitVec 1) (dest : Half) :
    requiresAck frame_type ack_req dest = 1#1 ↔
      frame_type ≠ Config.ftAck ∧ ack_req = 1#1 ∧ dest ≠ Config.broadcastAddr := by
  rw [requiresAck, ofBool_eq_one_iff]
  simp [and_assoc]

/-- The frame type is the lower byte's remainder by 8. -/
theorem extractLsb'_eq_ftAck_iff (lo : Byte) : lo.extractLsb' 0 3 = Config.ftAck ↔ lo.toNat % 8 = 2 := by
  rw [← BitVec.toNat_inj, BitVec.extractLsb'_toNat]
  rfl

/-- A pair of bytes is the broadcast address exactly when its number is. -/
theorem le16_eq_broadcastAddr_iff (lo hi : Byte) :
    le16 lo hi = Config.broadcastAddr ↔ lo.toNat + 256 * hi.toNat = 0xFFFF := by
  rw [← BitVec.toNat_inj, le16_toNat]
  rfl

/-- Settles O39: the size check, then the predicate of the buffer's bytes. -/
theorem ackreqHasExactlyThreeConditions : Obligations.AckreqHasExactlyThreeConditions := by
  intro b s
  refine ⟨fun h => answers_of_exec (exec_of_mem_bufferOps_of_lt s (by simp [mem_bufferOps]) h), fun h => ?_⟩
  obtain ⟨t, ht, hdelivered⟩ := answers_ackreq_of_le h rfl
  refine ⟨t, _, ht, hdelivered, ?_⟩
  rw [requiresAck_eq_one_iff, Ne, extractLsb'_eq_ftAck_iff, ofBool_eq_one_iff, Ne, le16_eq_broadcastAddr_iff]

/-- Settles O41: the mask of offset 1 has the frame type and Ack Request, and dest lies at offsets 6 and 7. -/
theorem ackreqHasNoHiddenCondition : Obligations.AckreqHasNoHiddenCondition := by
  intro b b' s s' hlen hmask h6 h7
  obtain h | h := Nat.lt_or_ge b.len 10
  · exact answerAlike_of_mem_bufferOps_of_lt s s' (by simp [mem_bufferOps]) (by simp [mem_bufferOps]) h (hlen.mp h)
  · refine ⟨_, answers_ackreq_of_le h rfl, answers_ackreq_of_le (by omega) ?_⟩
    have htype := extractLsb'_congr_of_and_eq hmask (start := 0) (w := 3) (by decide)
    have hack := getLsbD_congr_of_and_eq hmask (k := 5) (by decide)
    have hdest := congrArg₂ le16 h6 h7
    rw [htype, hack, hdest]

/-- Settles O37: ACKREQ and ADDRDEC do not look at offset 0, and of the header it is the length alone. -/
theorem onlyLenchkLooksAtTheLengthByte : Obligations.OnlyLenchkLooksAtTheLengthByte := by
  intro b s v
  have hsame (off : Nat) (hoff : off ≠ 0) : (s.snapshot b).byteAt off = (s.snapshot (b.store 0 v)).byteAt off :=
    (byteAt_store_other s b v hoff).symm
  refine ⟨?ackreq, ?addrdec, fun h => ?hdrx⟩
  case ackreq =>
    exact ackreqHasNoHiddenCondition b _ s s Iff.rfl (congrArg (· &&& 0x27#8) (hsame 1 (by omega)))
      (hsame 6 (by omega)) (hsame 7 (by omega))
  case addrdec =>
    exact addrdecIgnoresEverythingElse b _ s s Iff.rfl (congrArg (·.getLsbD 6) (hsame 1 (by omega)))
      (congrArg (· &&& 0xCC#8) (hsame 2 (by omega))) fun off hlo _ => hsame off (by omega)
  case hdrx =>
    refine ⟨_, answers_of_exec (exec_hdrx_header s h),
      (answers_iff_of_exec (exec_hdrx_header (b := b.store 0 v) s h)).mpr ?_⟩
    simp [Snapshot.header, byteAt_store_same, byteAt_store_other, halfAt_store_other]

/-- LENCHK sees the length byte alone. -/
theorem answerAlike_lenchk {b b' : Buffer} {s s' : State} (h : 10 ≤ b.len) (h' : 10 ≤ b'.len)
    (hsame : SameByte (s.snapshot b) (s'.snapshot b') 0) : AnswerAlike (.lenchk b) s (.lenchk b') s' := by
  refine answerAlike_of_exec (exec_lenchk_of_le s h) ?_
  rw [exec_lenchk_of_le s' h', ← hsame]

/-- Settles O33: ACKREQ and ADDRDEC see less than their listed offsets, HDRX and LENCHK exactly theirs. -/
theorem responseDependsOnTheListedOffsetsOnly : Obligations.ResponseDependsOnTheListedOffsetsOnly := by
  intro b b' s s' i i' k h h' hi hi' hsame
  have hlen : b.len < 10 ↔ b'.len < 10 := iff_of_false (by omega) (by omega)
  obtain ⟨rfl, rfl⟩ | ⟨rfl, rfl⟩ | ⟨rfl, rfl⟩ | ⟨rfl, rfl⟩ := same_bufferOp_of_getElem? hi hi'
  · have same (off : Nat) (hoff : off ∈ [1, 6, 7]) : SameByte (s.snapshot b) (s'.snapshot b') off := hsame off hoff
    exact ackreqHasNoHiddenCondition b b' s s' hlen (congrArg (· &&& 0x27#8) (same 1 (by decide)))
      (same 6 (by decide)) (same 7 (by decide))
  · have same (off : Nat) (hoff : off ∈ [1, 2, 4, 5, 6, 7, 8, 9]) : SameByte (s.snapshot b) (s'.snapshot b') off :=
      hsame off hoff
    exact addrdecIgnoresEverythingElse b b' s s' hlen (congrArg (·.getLsbD 6) (same 1 (by decide)))
      (congrArg (· &&& 0xCC#8) (same 2 (by decide))) fun off hlo hhi => same off (by interval_cases off <;> decide)
  · have same (off : Nat) (hoff : off ∈ List.range 10) : SameByte (s.snapshot b) (s'.snapshot b') off :=
      hsame off hoff
    exact answerAlike_hdrx_of_sameByte h h' fun off hoff => same off (List.mem_range.mpr hoff)
  · exact answerAlike_lenchk h h' (hsame 0 List.mem_cons_self)

end Sys2Proof.Machine

/-! Transactions do not interfere (20_memory.md R60, 70_reset_and_hazards.md R217, R218, 10_state.md R31): where the
host has the bytes read, one response is the answer in every state, and it depends on the ports in use alone. -/

namespace Sys2Proof.Machine

/-- The operation delivers this one response in every state. -/
def AlwaysDelivers (i : Instr) (a : Response) : Prop := ∀ s : State, exec i s = .next (s.deliver a)

/-- The request is answered by this one response in every state, whatever the host does next. -/
def AlwaysAnswered (r : Request) (a : Response) : Prop :=
  ∀ (s : State) (rest : List HostAction), s.inbox = .request r :: rest →
    step s = .next (State.deliver { s with inbox := rest } a)

/-- What an operation answers with it delivers. -/
theorem exec_of_answers {i : Instr} {s : State} {r : Response} (ha : Answers i s r) :
    exec i s = .next (s.deliver r) := by
  obtain ⟨r', hr'⟩ := exec_eq_deliver i s
  rwa [ha.eq_of_exec hr']

/-- Operations that answer alike in any two states deliver one response in every state. -/
theorem alwaysDelivers_of_answerAlike {i i' : Instr} (h : ∀ s s', AnswerAlike i s i' s') :
    ∃ a, AlwaysDelivers i a ∧ AlwaysDelivers i' a := by
  obtain ⟨a, ha, ha'⟩ := h .reset .reset
  refine ⟨a, fun s => ?_, fun s' => ?_⟩
  · obtain ⟨x, hx, hx'⟩ := h s .reset
    obtain rfl : x = a := hx'.eq_of_exec (exec_of_answers ha')
    exact exec_of_answers hx
  · obtain ⟨x, hx, hx'⟩ := h .reset s'
    obtain rfl : x = a := hx.eq_of_exec (exec_of_answers ha)
    exact exec_of_answers hx'

/-- A buffer operation delivers one response in every state, on every buffer that holds the same bytes below the stated
length. -/
theorem alwaysDelivers_of_bufferOp {b b' : Buffer} {k : Nat} {i i' : Instr} (hi : (bufferOps b)[k]? = some i)
    (hi' : (bufferOps b')[k]? = some i') (hlen : b.len = b'.len)
    (hread : ∀ off < b.len, b.bytes.read? off = b'.bytes.read? off) (hb : b.backed) :
    ∃ a, AlwaysDelivers i a ∧ AlwaysDelivers i' a := by
  obtain ⟨-, -, hbuffer⟩ := sameRequestGivesSameResponse
  exact alwaysDelivers_of_answerAlike fun s s' => hbuffer b b' k i i' s s' hi hi' hlen hread hb

/-- A buffer operation on bytes the host has delivers one response in every state. -/
theorem alwaysDelivers_of_backed {b : Buffer} {i : Instr} (hi : i ∈ bufferOps b) (hb : b.backed) :
    ∃ a, AlwaysDelivers i a := by
  obtain ⟨k, hk⟩ := List.mem_iff_getElem?.mp hi
  obtain ⟨a, ha, -⟩ := alwaysDelivers_of_bufferOp hk hk rfl (fun _ _ => rfl) hb
  exact ⟨a, ha⟩

/-- Settles O15: each operation delivers its one response, first or second. -/
theorem transactionsInEitherOrderAnswerAlike : Obligations.TransactionsInEitherOrderAnswerAlike := by
  intro s i j b c hi hj hb hc
  obtain ⟨x, hx⟩ := alwaysDelivers_of_backed hi hb
  obtain ⟨y, hy⟩ := alwaysDelivers_of_backed hj hc
  exact ⟨_, _, _, _, x, y, hx s, delivered_deliver s x, hy _, delivered_deliver _ y,
    hy s, delivered_deliver s y, hx _, delivered_deliver _ x⟩

/-- A select is one of the codec's, one of the four buffer operations' or a reserved one (30_encoding.md R80, R81). -/
theorem select_cases (op : BitVec 3) :
    op = 0b000#3 ∨ op = 0b001#3 ∨ (∃ k < 4, op.toNat = 2 + k) ∨ op = 0b110#3 ∨ op = 0b111#3 := by
  revert op; decide

/-- The selects from 010 on decode, in order, to the buffer operations on the buffer presented. -/
theorem decode_bufferOp {r : Request} {k : Nat} (hk : k < 4) (hop : r.op.toNat = 2 + k) :
    ∃ i, decode r = .op i ∧ (bufferOps r.buffer)[k]? = some i := by
  interval_cases k <;> simp [decode, hop, bufferOps]

/-- The response of the operation a request decodes to is the request's. -/
theorem alwaysAnswered_of_decode_op {r : Request} {i : Instr} {a : Response} (hd : decode r = .op i)
    (ha : AlwaysDelivers i a) : AlwaysAnswered r a :=
  fun _ _ h => (step_of_decode_op h hd).trans (ha _)

/-- Two requests with one select and the same values on the ports in use are answered by one response in every state. -/
theorem alwaysAnswered_of_agree {r r' : Request} (hop : r.op = r'.op) (hfcf : r.op = 0b000#3 → r.fcf_in = r'.fcf_in)
    (hfld : r.op = 0b001#3 → r.fld_in = r'.fld_in)
    (hbuf : 2 ≤ r.op.toNat → r.op.toNat ≤ 5 → r.buf_len = r'.buf_len ∧
      (∀ off < r.buf_len.toNat, r.buf.read? off = r'.buf.read? off) ∧ r.buffer.backed) :
    ∃ a, AlwaysAnswered r a ∧ AlwaysAnswered r' a := by
  obtain h | h | ⟨k, hk, h⟩ | h := select_cases r.op
  · have hd : decode r = .op (.fcfdec r.fcf_in) := by simp [decode, h]
    have hd' : decode r' = .op (.fcfdec r.fcf_in) := by simp [decode, ← hop, h, hfcf h]
    exact ⟨_, alwaysAnswered_of_decode_op hd (exec_fcfdec _), alwaysAnswered_of_decode_op hd' (exec_fcfdec _)⟩
  · have hd : decode r = .op (.fcfenc r.fld_in) := by simp [decode, h]
    have hd' : decode r' = .op (.fcfenc r.fld_in) := by simp [decode, ← hop, h, hfld h]
    exact ⟨_, alwaysAnswered_of_decode_op hd (exec_fcfenc _), alwaysAnswered_of_decode_op hd' (exec_fcfenc _)⟩
  · obtain ⟨hlen, hread, hb⟩ := hbuf (by omega) (by omega)
    obtain ⟨i, hd, hi⟩ := decode_bufferOp hk h
    obtain ⟨i', hd', hi'⟩ := decode_bufferOp (r := r') hk (hop ▸ h)
    obtain ⟨a, ha, ha'⟩ := alwaysDelivers_of_bufferOp hi hi' (congrArg BitVec.toNat hlen) hread hb
    exact ⟨a, alwaysAnswered_of_decode_op hd ha, alwaysAnswered_of_decode_op hd' ha'⟩
  · exact ⟨_, fun _ _ hin => step_of_decode_reserved hin (decode_of_reserved h),
      fun _ _ hin => step_of_decode_reserved hin (decode_of_reserved (hop ▸ h))⟩

/-- Settles O17: the one response of both requests. -/
theorem unusedPortsAreIgnored : Obligations.UnusedPortsAreIgnored := by
  intro s s' r r' rest rest' h h' hop hfcf hfld hbuf
  obtain ⟨a, ha, ha'⟩ := alwaysAnswered_of_agree hop hfcf hfld hbuf
  exact ⟨_, _, a, ha s rest h, delivered_deliver _ a, ha' s' rest' h', delivered_deliver _ a⟩

/-- A request is answered by one response in every state where, if it is one of a buffer operation, the host has the
bytes. -/
theorem alwaysAnswered_of_backed {r : Request} (hr : 2 ≤ r.op.toNat → r.op.toNat ≤ 5 → r.buffer.backed) :
    ∃ a, AlwaysAnswered r a := by
  obtain ⟨a, ha, -⟩ := alwaysAnswered_of_agree (r := r) (r' := r) rfl (fun _ => rfl) (fun _ => rfl)
    fun hlo hhi => ⟨rfl, fun _ _ => rfl, hr hlo hhi⟩
  exact ⟨a, ha⟩

/-- Such requests have their responses, one each. -/
theorem exists_answers {rs : List Request}
    (hrs : ∀ r ∈ rs, 2 ≤ r.op.toNat → r.op.toNat ≤ 5 → r.buffer.backed) :
    ∃ answers, List.Forall₂ AlwaysAnswered rs answers := by
  induction rs with
  | nil => exact ⟨[], .nil⟩
  | cons r rs ih =>
    obtain ⟨hr, hrest⟩ := List.forall_mem_cons.mp hrs
    obtain ⟨a, ha⟩ := alwaysAnswered_of_backed hr
    obtain ⟨answers, hanswers⟩ := ih hrest
    exact ⟨a :: answers, .cons ha hanswers⟩

/-- A run whose first step ends in a next state goes on from there. -/
theorem run_succ_of_step {s s' : State} (k : Nat) (h : step s = .next s') : core.run (k + 1) s = core.run k s' := by
  have hcore : core.step s = .next s' := h
  simp only [Host.Core.run, hcore]

/-- A run over requests that have their responses delivers these in order. -/
theorem run_requests {rs : List Request} {answers : List Response} (h : List.Forall₂ AlwaysAnswered rs answers)
    (s : State) :
    ∃ t : State, core.run rs.length ({ s with inbox := rs.map .request } : State) = .next t ∧ t.inbox = [] ∧
      t.responses = s.responses ++ answers := by
  induction h generalizing s with
  | nil => exact ⟨{ s with inbox := [] }, rfl, rfl, (List.append_nil _).symm⟩
  | @cons r a rs answers ha _ ih =>
    have hstep := ha { s with inbox := .request r :: rs.map .request } _ rfl
    obtain ⟨t, hrun, hinbox, hresponses⟩ := ih (s.deliver a)
    exact ⟨t, (run_succ_of_step _ hstep).trans hrun, hinbox, by simp [hresponses]⟩

/-- Settles O14: each request has its response, the one it gets in the run and alone. -/
theorem runAnswersEveryRequestAsIfAlone : Obligations.RunAnswersEveryRequestAsIfAlone := by
  intro rs s hrs
  obtain ⟨answers, hanswers⟩ := exists_answers hrs
  obtain ⟨t, hrun, hinbox, hresponses⟩ := run_requests hanswers s
  exact ⟨t, answers, hrun, hinbox, hresponses, hanswers.imp fun r a ha => ⟨_, ha _ [] rfl, rfl⟩⟩

end Sys2Proof.Machine
